-- ==== Sys2Proof/Word.lean ====
section
/-! DEFINITION. The words of the block: the widths the spec gives its registers, its command word and the bytes it puts
on the bus (10_state.md R22, 30_encoding.md R70, 20_memory.md R50). -/

namespace Sys2Proof

/-- One byte on the bus, and one chip register (R50). -/
abbrev Byte := BitVec 8

/-- One ON or OFF tick count of a PWM payload (R52). -/
abbrev Half := BitVec 16

/-- STATUS, RESULT and the DATA field (R22, R71). -/
abbrev Word := BitVec 32

/-- A command word, `CMD[63:0]` (R70). -/
abbrev CmdWord := BitVec 64

/-- A device address on the I2C bus: 7 bits (R6, R50). -/
abbrev DevAddr := BitVec 7

end Sys2Proof
end

