-- ==== Sys2Proof/Config.lean ====
section
/-! DEFINITION. The implementation parameters `CFG` the block is built for (00_scope.md R6). The source leaves their
values OPEN (92_eei_decisions.md D13): here stand their shape, the two constants the spec fixes, and ONE parameter set about
which nothing can be proved. What is derived from them is in Machine/Constants.lean. -/

namespace Sys2Proof

/-- What the converter of one slot is built from: its PulseRange in microseconds and its frequency in Hz (R6, R100). -/
structure SlotParams where
  /-- `MIN_US[s]` -/
  minUs  : Nat
  /-- `MAX_US[s]` -/
  maxUs  : Nat
  /-- `FREQ_HZ[s]` -/
  freqHz : Nat
deriving DecidableEq, Repr, Inhabited

/-- The OPEN parameters of R6. Slot 0 is the steering slot, slot 1 the pedal slot. -/
structure Params where
  /-- `DEV_ADDR`: its 7-bit type is the first validity condition of R7. -/
  devAddr   : DevAddr
  /-- `CLOCK_HZ`: the clock the chip's prescaler divides (90_conflicts.md C8). -/
  clockHz   : Nat
  /-- `PWM_FREQ_HZ` -/
  pwmFreqHz : Nat
  slot0     : SlotParams
  slot1     : SlotParams
deriving DecidableEq, Repr, Inhabited

namespace Config

/-- `NUM_SLOTS` (R6). -/
def numSlots : Nat := 2

/-- `NUM_CHANNELS` (R6). -/
def numChannels : Nat := 16

/-- `SETTLE_MIN` in milliseconds (R6, R258): a premise about SETTLE_TIMER. The model has no clock (R222), so no step reads it. -/
def settleMinMs : Nat := 5

/-- The parameters the block after reset was built for: OPEN (D13), so a constant without a body (log entry 1). -/
opaque openParams : Params

end Config

end Sys2Proof
end

