-- ==== Sys2Proof/Syntax.lean ====
section
/-! DEFINITION. The commands of the block: one constructor per row of spec/opcode_table.json (30_encoding.md R72), with the
operands of the assembler forms of R85. -/

namespace Sys2Proof

/-- A command. Slots and channels are indexes; bytes, tick counts and the Q16.16 value are the bits the command carries. -/
inductive Instr where
  /-- `CONVERT s, v` (R105) -/
  | convert (slot : Nat) (v : Word)
  /-- `SEND s, v` (R120) -/
  | send (slot : Nat) (v : Word)
  /-- `WRITE MODE, b` (R141) -/
  | writeMode (b : Byte)
  /-- `WRITE PRESCALE, b` (R142) -/
  | writePrescale (b : Byte)
  /-- `WRITE PWM[n], on, off` (R144) -/
  | writePwm (n : Nat) (on off : Half)
  /-- `READ MODE` (R145) -/
  | readMode
  /-- `READ PRESCALE` (R146) -/
  | readPrescale
  /-- `READ PWM[n]` (R147) -/
  | readPwm (n : Nat)
  /-- `PROBE` (R161) -/
  | probe
  /-- `START` (R168) -/
  | start
deriving DecidableEq, Repr

end Sys2Proof
end

