-- ==== Sys2Proof/WellFormed.lean ====
section
/-! DEFINITION. Which terms of Instr are commands of the block: a slot is 0 or 1 and a channel is 0..15 (R85, R6); every
other operand is well-formed by its width. -/

namespace Sys2Proof

/-- `s ∈ {0,1}` (R85, R77). -/
def slotOk (s : Nat) : Bool := decide (s < Config.numSlots)

/-- `n ∈ 0..15` (R85, R73). -/
def channelOk (n : Nat) : Bool := decide (n < Config.numChannels)

/-- The command can be written in the assembly language of R85, so it has an encoding (R72). -/
def Instr.wellFormed : Instr → Bool
  | .convert s _ => slotOk s
  | .send s _ => slotOk s
  | .writeMode _ => true
  | .writePrescale _ => true
  | .writePwm n _ _ => channelOk n
  | .readMode => true
  | .readPrescale => true
  | .readPwm n => channelOk n
  | .probe => true
  | .start => true

end Sys2Proof
end

