-- ==== Sys2Proof/Decode.lean ====
section
/-! DEFINITION. The command word: its fields (30_encoding.md R71), the opcode map as a table of rows (R72,
spec/opcode_table.json), the decoder, total on all 64-bit words and rejecting by name, and the encoder. -/

namespace Sys2Proof

/-! ### Fields (R71) -/

/-- `OP = CMD[3:0]` -/
def opOf (w : CmdWord) : BitVec 4 := w.extractLsb' 0 4

/-- `REG = CMD[5:4]` -/
def regOf (w : CmdWord) : BitVec 2 := w.extractLsb' 4 2

/-- `IDX = CMD[9:6]` -/
def idxOf (w : CmdWord) : BitVec 4 := w.extractLsb' 6 4

/-- `SLOT = CMD[10]` -/
def slotOf (w : CmdWord) : BitVec 1 := w.extractLsb' 10 1

/-- `RSV = CMD[31:11]` -/
def rsvOf (w : CmdWord) : BitVec 21 := w.extractLsb' 11 21

/-- `DATA = CMD[63:32]` -/
def dataOf (w : CmdWord) : Word := w.extractLsb' 32 32

/-- The byte operand `b = DATA[7:0]` (R75). -/
def byteOf (w : CmdWord) : Byte := (dataOf w).extractLsb' 0 8

/-- `ON = DATA[15:0]` (R76). -/
def onOf (w : CmdWord) : Half := (dataOf w).extractLsb' 0 16

/-- `OFF = DATA[31:16]` (R76). -/
def offOf (w : CmdWord) : Half := (dataOf w).extractLsb' 16 16

/-! ### Decoder -/

/-- A part of the command word that some row of R72 requires to be 0. -/
inductive CmdField where
  | reg | idx | slot | rsv | data
  /-- `DATA[31:8]` (R75) -/
  | dataHigh
deriving DecidableEq, Repr

/-- Why a command word is illegal (R78). The block reports all three alike, as ILLEGAL_CMD. -/
inductive DecodeError where
  /-- OP is 0x0 or 0x7..0xF. -/
  | reservedOp (op : Nat)
  /-- `REG = 3` for WRITE or READ. -/
  | reservedReg
  /-- A field that must be 0 is not. -/
  | nonzero (f : CmdField)
deriving DecidableEq, Repr

/-- The field is 0 in `w`. -/
def CmdField.isZero (w : CmdWord) : CmdField → Bool
  | .reg => decide (regOf w = 0)
  | .idx => decide (idxOf w = 0)
  | .slot => decide (slotOf w = 0)
  | .rsv => decide (rsvOf w = 0)
  | .data => decide (dataOf w = 0)
  | .dataHigh => decide ((dataOf w).extractLsb' 8 24 = 0)

/-- The command `i`, if every "must be 0" field of its row is 0 (R72). -/
def withZeros (w : CmdWord) (i : Instr) : List CmdField → Except DecodeError Instr
  | [] => .ok i
  | f :: fs => if f.isZero w then withZeros w i fs else .error (.nonzero f)

/-- The command a word stands for, by the opcode map of R72. -/
def decode (w : CmdWord) : Except DecodeError Instr :=
  match (opOf w).toNat, (regOf w).toNat with
  | 1, _ => withZeros w (.convert (slotOf w).toNat (dataOf w)) [.reg, .idx, .rsv]
  | 2, _ => withZeros w (.send (slotOf w).toNat (dataOf w)) [.reg, .idx, .rsv]
  | 3, 0 => withZeros w (.writeMode (byteOf w)) [.idx, .slot, .rsv, .dataHigh]
  | 3, 1 => withZeros w (.writePrescale (byteOf w)) [.idx, .slot, .rsv, .dataHigh]
  | 3, 2 => withZeros w (.writePwm (idxOf w).toNat (onOf w) (offOf w)) [.slot, .rsv]
  | 3, _ => .error .reservedReg
  | 4, 0 => withZeros w .readMode [.idx, .slot, .rsv, .data]
  | 4, 1 => withZeros w .readPrescale [.idx, .slot, .rsv, .data]
  | 4, 2 => withZeros w (.readPwm (idxOf w).toNat) [.slot, .rsv, .data]
  | 4, _ => .error .reservedReg
  | 5, _ => withZeros w .probe [.reg, .idx, .slot, .rsv, .data]
  | 6, _ => withZeros w .start [.reg, .idx, .slot, .rsv, .data]
  | op, _ => .error (.reservedOp op)

/-! ### The opcode map as a table -/

/-- A row of spec/opcode_table.json: a word matches it when its bits under the mask are the pattern. -/
structure OpcodeRow where
  mnemonic : String
  pattern  : CmdWord
  mask     : CmdWord
deriving DecidableEq, Repr

def rowConvert       : OpcodeRow := ⟨"CONVERT", 0x0000000000000001#64, 0x00000000FFFFFBFF#64⟩
def rowSend          : OpcodeRow := ⟨"SEND", 0x0000000000000002#64, 0x00000000FFFFFBFF#64⟩
def rowWriteMode     : OpcodeRow := ⟨"WRITE_MODE", 0x0000000000000003#64, 0xFFFFFF00FFFFFFFF#64⟩
def rowWritePrescale : OpcodeRow := ⟨"WRITE_PRESCALE", 0x0000000000000013#64, 0xFFFFFF00FFFFFFFF#64⟩
def rowWritePwm      : OpcodeRow := ⟨"WRITE_PWM", 0x0000000000000023#64, 0x00000000FFFFFC3F#64⟩
def rowReadMode      : OpcodeRow := ⟨"READ_MODE", 0x0000000000000004#64, 0xFFFFFFFFFFFFFFFF#64⟩
def rowReadPrescale  : OpcodeRow := ⟨"READ_PRESCALE", 0x0000000000000014#64, 0xFFFFFFFFFFFFFFFF#64⟩
def rowReadPwm       : OpcodeRow := ⟨"READ_PWM", 0x0000000000000024#64, 0xFFFFFFFFFFFFFC3F#64⟩
def rowProbe         : OpcodeRow := ⟨"PROBE", 0x0000000000000005#64, 0xFFFFFFFFFFFFFFFF#64⟩
def rowStart         : OpcodeRow := ⟨"START", 0x0000000000000006#64, 0xFFFFFFFFFFFFFFFF#64⟩

/-- The ten rows of R72. -/
def opcodeTable : List OpcodeRow :=
  [rowConvert, rowSend, rowWriteMode, rowWritePrescale, rowWritePwm,
   rowReadMode, rowReadPrescale, rowReadPwm, rowProbe, rowStart]

/-- The word has the row's OP value and meets its "must be" conditions (R72). -/
def OpcodeRow.fits (r : OpcodeRow) (w : CmdWord) : Bool := decide (w &&& r.mask = r.pattern)

/-- The row of R72 that describes a command. -/
def Instr.row : Instr → OpcodeRow
  | .convert _ _ => rowConvert
  | .send _ _ => rowSend
  | .writeMode _ => rowWriteMode
  | .writePrescale _ => rowWritePrescale
  | .writePwm _ _ _ => rowWritePwm
  | .readMode => rowReadMode
  | .readPrescale => rowReadPrescale
  | .readPwm _ => rowReadPwm
  | .probe => rowProbe
  | .start => rowStart

/-! ### Encoder -/

/-- A command word from its fields, RSV being 0 (R71). -/
def packCmd (op : BitVec 4) (reg : BitVec 2) (idx : BitVec 4) (slot : BitVec 1) (data : Word) : CmdWord :=
  data.setWidth 64 <<< 32 ||| slot.setWidth 64 <<< 10 ||| idx.setWidth 64 <<< 6 ||| reg.setWidth 64 <<< 4 ||| op.setWidth 64

/-- The 32-bit pair `{OFF, ON}` (R76). -/
def pairWord (on off : Half) : Word := off.setWidth 32 <<< 16 ||| on.setWidth 32

/-- The word of a well-formed command (R71, R72). -/
def encode : Instr → CmdWord
  | .convert s v => packCmd 1 0 0 (BitVec.ofNat 1 s) v
  | .send s v => packCmd 2 0 0 (BitVec.ofNat 1 s) v
  | .writeMode b => packCmd 3 0 0 0 (b.setWidth 32)
  | .writePrescale b => packCmd 3 1 0 0 (b.setWidth 32)
  | .writePwm n on off => packCmd 3 2 (BitVec.ofNat 4 n) 0 (pairWord on off)
  | .readMode => packCmd 4 0 0 0 0
  | .readPrescale => packCmd 4 1 0 0 0
  | .readPwm n => packCmd 4 2 (BitVec.ofNat 4 n) 0 0
  | .probe => packCmd 5 0 0 0 0
  | .start => packCmd 6 0 0 0 0

/-- The command word of `nbits` given bits, every bit above them 0. A command is ONE 64-bit word, presented whole (R70). -/
def tableWord (nbits w : Nat) : CmdWord := BitVec.ofNat 64 (w % 2 ^ nbits)

/-- What the decoder reads from the word `w` of `nbits` bits, numbered as spec/opcode_table.json numbers them. -/
def decodeTableWord (nbits w : Nat) : Option Instr :=
  match decode (tableWord nbits w) with
  | .ok i => some i
  | .error _ => none

end Sys2Proof
end

