-- ==== Sys2Proof/Machine/Constants.lean ====
section
/-! DEFINITION. The constants derived once from `CFG` (10_state.md R21, 40_converter.md R101–R104), the validity of a
configuration (00_scope.md R7), and the configurations a block can be built for. -/

namespace Sys2Proof

/-- `ticks(p, f) = floor(p * f * 65535 / 1000000)`, exactly (R101, D29). -/
def ticks (p f : Nat) : Nat := p * f * 65535 / 1000000

namespace SlotParams

/-- `MIN_TICKS[s]` (R101). -/
def minTicks (c : SlotParams) : Nat := ticks c.minUs c.freqHz

/-- `MAX_TICKS[s]` (R101). -/
def maxTicks (c : SlotParams) : Nat := ticks c.maxUs c.freqHz

/-- `SCALE[s] = MAX_TICKS[s] - MIN_TICKS[s]` (R102). -/
def scale (c : SlotParams) : Nat := c.maxTicks - c.minTicks

/-- The slot's part of R7. -/
def valid (c : SlotParams) : Bool :=
  decide (1 ≤ c.freqHz) && decide (c.minUs < c.maxUs) && decide (c.minTicks ≤ c.maxTicks) && decide (c.maxTicks ≤ 65535)

end SlotParams

namespace Params

/-- The parameters of slot `s`. -/
def slot (c : Params) (s : Nat) : SlotParams := if s = 0 then c.slot0 else c.slot1

/-- `PRESCALE_VAL = (2*CLOCK_HZ + 4096*PWM_FREQ_HZ) // (8192*PWM_FREQ_HZ)` (R104). -/
def prescaleVal (c : Params) : Nat := (2 * c.clockHz + 4096 * c.pwmFreqHz) / (8192 * c.pwmFreqHz)

/-- A valid configuration (R7). -/
def valid (c : Params) : Bool :=
  decide (1 ≤ c.clockHz) && decide (1 ≤ c.pwmFreqHz) && decide (c.prescaleVal ≤ 255) && c.slot0.valid && c.slot1.valid

end Params

/-- The channel `SLOT_CH[s]` bound to slot `s`: 0 (steering) and 1 (pedal) (R6). -/
def slotChannel (s : Nat) : Nat := if s = 0 then 0 else 1

/-- The configuration of a block. An invalid one is refused, "there is no machine for it" (R7): none can be written here. -/
structure Cfg where
  params : Params
  valid  : params.valid = true
deriving DecidableEq, Repr

namespace Cfg

/-- `DEV_ADDR` -/
def dev (c : Cfg) : DevAddr := c.params.devAddr

/-- The converter constants of slot `s` (R100). -/
def slot (c : Cfg) (s : Nat) : SlotParams := c.params.slot s

/-- `PRESCALE_VAL` as the byte START writes (R166). -/
def prescaleByte (c : Cfg) : Byte := BitVec.ofNat 8 c.params.prescaleVal

end Cfg

/-- Parameters that meet R7, standing in where the OPEN ones do not. -/
def Config.someValidParams : Params := ⟨0, 204800, 50, ⟨750, 2250, 50⟩, ⟨750, 2250, 50⟩⟩

/-- The configuration of the block after reset: any valid one, for `Config.openParams` has no known value (log entry 1). -/
def Config.cfg : Cfg :=
  if h : Config.openParams.valid = true then ⟨Config.openParams, h⟩ else ⟨Config.someValidParams, by decide⟩

end Sys2Proof
end

