-- ==== Sys2Proof/Machine/State.lean ====
section
/-! DEFINITION. The state of the block as plain data (10_state.md R22–R36), the events of its history (20_memory.md R60),
and the two queues of inputs from the agents outside it (R20). -/

namespace Sys2Proof.Machine

/-- `INIT_STATE` (R26). The encodings 5..7 are never taken, so they are no value here. -/
inductive InitState where
  /-- no PROBE has yet succeeded since reset -/
  | unprobed
  /-- a PROBE succeeded; no START has completed or failed since -/
  | present
  /-- the last START completed all seven steps -/
  | running
  /-- the last START ended with a bus error partway -/
  | startFailed
  /-- a PROBE failed both attempts; terminal until reset -/
  | notFound
deriving DecidableEq, Repr

/-- The kind of a bus transaction: W, WR or R (R60). -/
inductive TxKind where
  | write | writeRead | read
deriving DecidableEq, Repr

/-- A transaction as the block issues it (R56): `BusWrite(dev, out)`, `BusWriteRead(dev, out, n)` or `BusRead(dev, n)`. -/
structure BusRequest where
  kind : TxKind
  dev  : DevAddr
  out  : List Byte
  n    : Nat
deriving DecidableEq, Repr

/-- What BUS answers to a transaction: a draw (R57). -/
inductive BusAnswer where
  | fail
  /-- OK, with the bytes a read returns -/
  | ok (bytes : List Byte)
deriving DecidableEq, Repr

/-- An event of the history (R60). -/
inductive Event where
  | accept (cmd : CmdWord)
  | complete (status result : Word)
  | lock
  | unlock
  /-- `Tx(kind, dev, out, n, answer, in)`: `got` is `none` for FAIL, and the bytes read for OK. -/
  | tx (req : BusRequest) (got : Option (List Byte))
  | settleStart
  | settleEnd
deriving DecidableEq, Repr

/-- The bring-up steps with a transaction: all seven but step 6 (R168). -/
inductive BringUpStep where
  | one | two | three | four | five | seven
deriving DecidableEq, Repr

/-- `SEQ`: IDLE, the start of the command's pseudocode (R83), or a wait point: a `Lock()`, a transaction or `WaitSettle()` (R28). -/
inductive Seq where
  | idle
  | start
  /-- at `Lock()` -/
  | lock
  /-- at the one transaction of a SEND, WRITE or READ -/
  | access
  /-- at PROBE's empty write -/
  | probeWrite
  /-- at PROBE's fallback read -/
  | probeRead
  /-- at a transaction of START -/
  | bringUp (k : BringUpStep)
  /-- at START's `WaitSettle()` -/
  | settle
deriving DecidableEq, Repr

/-- A move of the host, made only while `BUSY = 0` (R83, R241, R250). -/
inductive HostMove where
  /-- presents a command word -/
  | present (w : CmdWord)
  /-- asserts the reset input -/
  | reset
  /-- does nothing, and lets the environment move -/
  | hold
deriving DecidableEq, Repr

/-- A move of BUS, OTHER or SETTLE_TIMER. One whose agent has no such step in the state it comes to changes nothing. -/
inductive EnvMove where
  /-- OTHER takes the bus lock -/
  | otherLock
  /-- OTHER gives the bus lock back -/
  | otherUnlock
  /-- BUS grants the block's `Lock()` -/
  | grant
  /-- BUS answers the block's transaction -/
  | answer (a : BusAnswer)
  /-- SETTLE_TIMER fires -/
  | settle
  /-- no agent answers in this step (R226, R259) -/
  | delay
deriving DecidableEq, Repr

/-- The block's registers (R22), its configuration (R21), the event history (R60), and, outside the block, whether OTHER
holds the bus lock and the moves the agents have yet to make (log entries 2 and 3). -/
structure State where
  cfg        : Cfg
  /-- `BUSY` -/
  busy       : Bool
  /-- `CMD` -/
  cmd        : CmdWord
  /-- `STATUS` -/
  status     : Word
  /-- `RESULT` -/
  result     : Word
  /-- `INIT_STATE` -/
  initState  : InitState
  /-- `SAVED_MODE` -/
  savedMode  : Byte
  /-- `LOCK_HELD` -/
  lockHeld   : Bool
  /-- `SEQ` -/
  seq        : Seq
  /-- the event history, oldest first -/
  history    : List Event
  /-- OTHER holds the bus lock (R53) -/
  otherHolds : Bool
  /-- the moves to come of BUS, OTHER and SETTLE_TIMER -/
  env        : List EnvMove
  /-- the moves to come of HOST -/
  hostQueue  : List HostMove
deriving DecidableEq, Repr

/-- A step of this machine never ends in a fault: every error ends the command and is reported in STATUS (R210), and a wait
without end is a hang, not a fault (R226). So there is no reason for one, and none is raised. -/
inductive Fault where
deriving DecidableEq, Repr

/-- Why a step has no meaning. -/
inductive Refusal where
  /-- Raised by exec's arm of an instruction without a meaning, and by nothing else; no arm does. Safe. -/
  | notModelled (mnemonic : String)
deriving DecidableEq, Repr

/-- The state after reset of a block built for `cfg` (R36), with no move to come and OTHER not holding the lock (log entry 3). -/
def State.resetWith (cfg : Cfg) : State where
  cfg := cfg
  busy := false
  cmd := 0
  status := 0
  result := 0
  initState := .unprobed
  savedMode := 0
  lockHeld := false
  seq := .idle
  history := []
  otherHolds := false
  env := []
  hostQueue := []

/-- The machine right after reset (R36, R240), built for the OPEN configuration. -/
def State.reset : State := State.resetWith Config.cfg

end Sys2Proof.Machine
end

