-- ==== Sys2Proof/Machine/Operands.lean ====
section
/-! DEFINITION. Operand forms: the register layouts and effective addresses (20_memory.md R51), the payload bytes in both
directions (R52, 30_encoding.md R80, R81), the three transactions (R56), and the Q16.16 operand (R74). -/

namespace Sys2Proof.Machine

/-- The 3-bit pattern of INIT_STATE (R26). -/
def InitState.code : InitState → BitVec 3
  | .unprobed => 0
  | .present => 1
  | .running => 2
  | .startFailed => 3
  | .notFound => 4

/-- The number a bring-up step has in STATUS.STEP (R177). -/
def BringUpStep.number : BringUpStep → BitVec 4
  | .one => 1
  | .two => 2
  | .three => 3
  | .four => 4
  | .five => 5
  | .seven => 7

/-! ### Register layouts -/

/-- `RegisterLayout` (R51). -/
structure RegisterLayout where
  baseAddress : Nat
  payload     : Nat
  isIndexed   : Bool
  strideBytes : Nat
deriving DecidableEq, Repr

/-- The chip's MODE register (R33, R51). -/
def modeLayout : RegisterLayout := ⟨0x00, 1, false, 0⟩

/-- The chip's PRESCALE register (R34, R51). -/
def prescaleLayout : RegisterLayout := ⟨0xFE, 1, false, 0⟩

/-- The chip's PWM channel registers (R35, R51). -/
def pwmLayout : RegisterLayout := ⟨0x06, 4, true, 4⟩

/-- "effective address = `baseAddress + strideBytes * index`" for an indexed register, the base for a fixed one (R51). -/
def RegisterLayout.address (l : RegisterLayout) (index : Nat) : Byte :=
  BitVec.ofNat 8 (if l.isIndexed then l.baseAddress + l.strideBytes * index else l.baseAddress)

/-- The address of MODE. -/
def modeAddr : Byte := modeLayout.address 0

/-- The address of PRESCALE. -/
def prescaleAddr : Byte := prescaleLayout.address 0

/-- `PWM_ADDR(n) = 0x06 + 4*n` (R51, R73). -/
def pwmAddr (n : Nat) : Byte := pwmLayout.address n

/-! ### Bytes on the bus -/

/-- `le16(w)`: low byte first (R9). -/
def le16 (w : Half) : List Byte := [w.extractLsb' 0 8, w.extractLsb' 8 8]

/-- The inverse of `le16`: the word of its low and its high byte. -/
def half (lo hi : Byte) : Half := hi.setWidth 16 <<< 8 ||| lo.setWidth 16

/-- The payload of a PWM register: ON, then OFF (R52). -/
def pwmPayload (on off : Half) : List Byte := le16 on ++ le16 off

/-- The value of a one-byte payload, `zext_32(b)` (R145). -/
def byteValue (bytes : List Byte) : Word :=
  match bytes with
  | b :: _ => b.setWidth 32
  | [] => 0

/-- The value `{OFF, ON}` of a PWM payload, the inverse of `pwmPayload` (R147). -/
def pwmValue (bytes : List Byte) : Word :=
  match bytes with
  | b0 :: b1 :: b2 :: b3 :: _ => pairWord (half b0 b1) (half b2 b3)
  | _ => 0

/-! ### Transactions -/

/-- `BusWrite(dev, bytes)` -/
def busWrite (dev : DevAddr) (bytes : List Byte) : BusRequest := ⟨.write, dev, bytes, 0⟩

/-- `BusWriteRead(dev, out, n)` -/
def busWriteRead (dev : DevAddr) (out : List Byte) (n : Nat) : BusRequest := ⟨.writeRead, dev, out, n⟩

/-- `BusRead(dev, n)` -/
def busRead (dev : DevAddr) (n : Nat) : BusRequest := ⟨.read, dev, [], n⟩

/-- The register write frame `MemWrite(a, _, payload)` (R10, R80). -/
def memWrite (dev : DevAddr) (a : Byte) (payload : List Byte) : BusRequest := busWrite dev (a :: payload)

/-- The register read frame `MemRead(a, n)` (R10, R81). -/
def memRead (dev : DevAddr) (a : Byte) (n : Nat) : BusRequest := busWriteRead dev [a] n

/-- What the block makes of BUS's answer: `none` for FAIL, the bytes read for OK. An OK read returns exactly `n` bytes;
anything else counts as FAIL (R57, D15). A write returns none. -/
def BusRequest.outcome (r : BusRequest) : BusAnswer → Option (List Byte)
  | .fail => none
  | .ok bytes =>
    match r.kind with
    | .write => some []
    | .writeRead => if bytes.length = r.n then some bytes else none
    | .read => if bytes.length = r.n then some bytes else none

/-! ### The normalized operand -/

/-- `V = s32(DATA)`, taken as is (R74, R13). -/
def normalized (v : Word) : Int := v.toInt

/-- `u32(i)`: the 32-bit two's-complement pattern (R9). -/
def u32 (i : Int) : Word := BitVec.ofInt 32 i

end Sys2Proof.Machine
end

