-- ==== Sys2Proof/Machine/Flags.lean ====
section
/-! DEFINITION. The STATUS register: its fields (10_state.md R23), the codes (60_exceptions.md R210), what each error records
(R211–R215), and the two words a completion writes (R217, R218). -/

namespace Sys2Proof.Machine

/-- A status code (R210). -/
inductive Code where
  | ok | illegalCmd | seqError | encodeRange | busIo | deviceNotFound
deriving DecidableEq, Repr

/-- The number of a code (R23). -/
def Code.bits : Code → BitVec 4
  | .ok => 0
  | .illegalCmd => 1
  | .seqError => 2
  | .encodeRange => 3
  | .busIo => 4
  | .deviceNotFound => 5

/-- What an error records beside LAST_OP (R210). -/
structure ErrInfo where
  code   : Code
  step   : BitVec 4
  errReg : Byte
  errDev : DevAddr
deriving DecidableEq, Repr

/-- R211 -/
def illegalCmd : ErrInfo := ⟨.illegalCmd, 0, 0, 0⟩

/-- R212 -/
def seqError : ErrInfo := ⟨.seqError, 0, 0, 0⟩

/-- R213 -/
def encodeRange (reg : Byte) : ErrInfo := ⟨.encodeRange, 0, reg, 0⟩

/-- R214: `step` is 0 except for START. -/
def busIo (step : BitVec 4) (reg : Byte) (dev : DevAddr) : ErrInfo := ⟨.busIo, step, reg, dev⟩

/-- R215 -/
def deviceNotFound (dev : DevAddr) : ErrInfo := ⟨.deviceNotFound, 0, 0, dev⟩

/-- The word `{STICKY, 000, LAST_OP, 0, ERR_DEV, ERR_REG, STEP, CODE}` (R23, R217). -/
def statusWord (sticky : BitVec 1) (lastOp : BitVec 4) (e : ErrInfo) : Word :=
  sticky.setWidth 32 <<< 31 ||| lastOp.setWidth 32 <<< 24 ||| e.errDev.setWidth 32 <<< 16 ||| e.errReg.setWidth 32 <<< 8
    ||| e.step.setWidth 32 <<< 4 ||| e.code.bits.setWidth 32

/-- `CODE = STATUS[3:0]` -/
def codeOf (st : Word) : BitVec 4 := st.extractLsb' 0 4

/-- `STEP = STATUS[7:4]` -/
def stepOf (st : Word) : BitVec 4 := st.extractLsb' 4 4

/-- `ERR_REG = STATUS[15:8]` -/
def errRegOf (st : Word) : Byte := st.extractLsb' 8 8

/-- `ERR_DEV = STATUS[22:16]` -/
def errDevOf (st : Word) : DevAddr := st.extractLsb' 16 7

/-- `LAST_OP = STATUS[27:24]` -/
def lastOpOf (st : Word) : BitVec 4 := st.extractLsb' 24 4

/-- `STICKY = STATUS[31]` -/
def stickyOf (st : Word) : BitVec 1 := st.extractLsb' 31 1

/-- The STATUS an error of the command `cmd` leaves (R217). -/
def errorStatus (st : Word) (cmd : CmdWord) (e : ErrInfo) : Word := statusWord (stickyOf st ||| 1) (opOf cmd) e

/-- The STATUS a successful completion of the command `cmd` leaves (R218). -/
def okStatus (st : Word) (cmd : CmdWord) : Word := statusWord (stickyOf st) (opOf cmd) ⟨.ok, 0, 0, 0⟩

end Sys2Proof.Machine
end

