-- ==== Sys2Proof/Machine/Ops.lean ====
section
/-! DEFINITION. The operations every command is made of: the pseudocode primitives of 00_scope.md R10 (`Lock`, `Unlock`, a bus
transaction, `WaitSettle`, `raise`, `complete`), acceptance and reset, and how a command is carried on through the moves of the
agents outside the block (10_state.md R20, R28). -/

namespace Sys2Proof.Machine

namespace State

/-! ### Primitives -/

/-- Appends an event to the history (R60). -/
def record (e : Event) (s : State) : State := { s with history := s.history ++ [e] }

/-- Moves SEQ to a point of the command's pseudocode (R28). -/
def goto (p : Seq) (s : State) : State := { s with seq := p }

/-- `INIT_STATE <- x` -/
def setInit (x : InitState) (s : State) : State := { s with initState := x }

/-- `SAVED_MODE <- m` (R27) -/
def saveMode (m : Byte) (s : State) : State := { s with savedMode := m }

/-- The moves to come of the environment. -/
def setEnv (env : List EnvMove) (s : State) : State := { s with env := env }

/-- The moves to come of the host. -/
def setHost (moves : List HostMove) (s : State) : State := { s with hostQueue := moves }

/-- The grant that ends `Lock()`: `LOCK_HELD <- 1`, and the event (R53). -/
def takeLock (s : State) : State := { s with lockHeld := true, history := s.history ++ [.lock] }

/-- `Unlock()`: `LOCK_HELD <- 0`, and the event (R54). -/
def unlock (s : State) : State := { s with lockHeld := false, history := s.history ++ [.unlock] }

/-- `if LOCK_HELD = 1: Unlock()` (R217). -/
def releaseLock (s : State) : State := if s.lockHeld then s.unlock else s

/-- The end of a command: STATUS and RESULT are written, BUSY falls, SEQ is IDLE, and the event is recorded (R217, R218). -/
def finish (st res : Word) (s : State) : State :=
  { s with status := st, result := res, busy := false, seq := .idle, history := s.history ++ [.complete st res] }

/-- `raise <Code>(info)`: error entry (R217). The lock is released, RESULT is unchanged. -/
def raise (e : ErrInfo) (s : State) : State :=
  s.releaseLock.finish (errorStatus s.status s.cmd e) s.result

/-- `complete(result)`, taken after the command's last `Unlock()` (R218). -/
def complete (res : Word) (s : State) : State := s.finish (okStatus s.status s.cmd) res

/-- `STATUS.CODE` -/
def code (s : State) : BitVec 4 := codeOf s.status

/-- The INIT_STATE output (R22, R26). -/
def initStateOut (s : State) : BitVec 3 := s.initState.code

/-- The `ready` output, `~BUSY` (R22, R83). -/
def ready (s : State) : Bool := !s.busy

/-! ### Acceptance and reset -/

/-- Acceptance of a command word (R83). -/
def accept (w : CmdWord) (s : State) : State :=
  { s with cmd := w, busy := true, seq := .start, history := s.history ++ [.accept w] }

/-- Reset (R240): every piece of block state at its value of R36. The configuration stays, and what is outside the block. -/
def resetBlock (s : State) : State :=
  { State.resetWith s.cfg with otherHolds := s.otherHolds, env := s.env, hostQueue := s.hostQueue }

/-- An illegal word completes at once with ILLEGAL_CMD (R78, R211). -/
def completeIllegal (s : State) : State := s.raise illegalCmd

/-! ### The bus lock as OTHER sees it -/

/-- OTHER takes the lock, where nobody holds it (R20, R53). -/
def otherTakes (s : State) : State := { s with otherHolds := s.otherHolds || !s.lockHeld }

/-- OTHER gives the lock back. -/
def otherReleases (s : State) : State := { s with otherHolds := false }

/-- BUS can end the block's `Lock()`: the block is at it, and OTHER does not hold the lock (R53). -/
def canGrant (s : State) : Bool := decide (s.seq = .lock) && !s.otherHolds

end State

/-! ### A command's pseudocode -/

/-- What BLOCK does at each point of a command: each function is one indivisible internal step, up to the next wait point or
the end (R28). -/
structure Pseudocode where
  /-- from the start of the pseudocode -/
  first    : State → State
  /-- after `Lock()` -/
  granted  : State → State
  /-- the transaction that waits for its answer -/
  request  : State → Option BusRequest
  /-- after a transaction, whose outcome and event are already recorded -/
  answered : Option (List Byte) → State → State
  /-- after `WaitSettle()` -/
  settled  : State → State

namespace Pseudocode

/-- BUS answers the transaction the block waits for, if it waits for one: the event is recorded (R60) and BLOCK goes on. -/
def onAnswer (p : Pseudocode) (a : BusAnswer) (s : State) : State :=
  match p.request s with
  | some r => p.answered (r.outcome a) (s.record (.tx r (r.outcome a)))
  | none => s

/-- One move of an agent outside the block, and BLOCK's internal step where the move ends its wait. A move whose agent has no
such step here changes nothing (log entry 4). -/
def deliver (p : Pseudocode) (m : EnvMove) (s : State) : State :=
  match m with
  | .otherLock => s.otherTakes
  | .otherUnlock => s.otherReleases
  | .grant => if s.canGrant then p.granted s.takeLock else s
  | .answer a => p.onAnswer a s
  | .settle => if s.seq = .settle then p.settled (s.record .settleEnd) else s
  | .delay => s

/-- Carries a waiting command on through the environment's moves: until it ends, until a step in which no agent answers, or
until there is no further move and BLOCK keeps waiting with `BUSY = 1` (R226, log entry 2). -/
def carryOn (p : Pseudocode) : List EnvMove → State → State
  | [], s => s.setEnv []
  | .delay :: rest, s => s.setEnv rest
  | m :: rest, s => if (p.deliver m s).busy then p.carryOn rest (p.deliver m s) else (p.deliver m s).setEnv rest

/-- Carries on the running command from SEQ: its first internal step where it has not begun, then its waits. -/
def run (p : Pseudocode) (s : State) : State :=
  if s.seq = .start then
    if (p.first s).busy then p.carryOn s.env (p.first s) else p.first s
  else p.carryOn s.env s

/-- A command that issues no transaction: its pseudocode is one internal step (R105). -/
def immediate (first : State → State) : Pseudocode where
  first := first
  granted := id
  request := fun _ => none
  answered := fun _ => id
  settled := id

/-- A command with one transaction under one lock hold: `RegWrite` (R140) and `RegRead` (R143). FAIL raises BUS_IO with the
register's address; OK unlocks and completes with the value of the bytes read. `first` is what comes before `Lock()`. -/
def oneAccess (first : State → State) (reg : Byte) (req : DevAddr → BusRequest) (result : List Byte → Word) : Pseudocode where
  first := first
  granted := State.goto .access
  request := fun s => if s.seq = .access then some (req s.cfg.dev) else none
  answered := fun got s =>
    match got with
    | some bytes => s.unlock.complete (result bytes)
    | none => s.raise (busIo 0 reg s.cfg.dev)
  settled := id

/-- `RegWrite(a, payload); complete(result)` (R140). -/
def regWrite (a : Byte) (payload : List Byte) (result : Word) : Pseudocode :=
  oneAccess (State.goto .lock) a (fun dev => memWrite dev a payload) (fun _ => result)

/-- `bytes = RegRead(a, n); complete(value(bytes))` (R143). -/
def regRead (a : Byte) (n : Nat) (value : List Byte → Word) : Pseudocode :=
  oneAccess (State.goto .lock) a (fun dev => memRead dev a n) value

end Pseudocode

namespace State

/-- A move of the environment while no command runs: only OTHER has steps then. -/
def envWhileIdle (s : State) : State :=
  match s.env with
  | [] => s
  | .otherLock :: rest => (s.setEnv rest).otherTakes
  | .otherUnlock :: rest => (s.setEnv rest).otherReleases
  | _ :: rest => s.setEnv rest

/-- A step while `BUSY = 0`: the host's next move (R83, R240), or else the environment's. With neither, the block waits in
IDLE (R242). -/
def idleStep (s : State) : State :=
  match s.hostQueue with
  | .present w :: rest => (s.setHost rest).accept w
  | .reset :: rest => (s.setHost rest).resetBlock
  | .hold :: rest => (s.setHost rest).envWhileIdle
  | [] => s.envWhileIdle

end State

end Sys2Proof.Machine
end

