-- ==== Sys2Proof/Machine/Converter.lean ====
section
/-! DEFINITION. CONVERT: the duty-cycle converter (40_converter.md R105–R113). -/

namespace Sys2Proof.Machine

/-- `cycle = MIN_TICKS[s] + (V * SCALE[s] >>> 16)`, where `>>> 16` is `floor(P / 65536)` (R105, R110, D8). -/
def cycleOf (c : SlotParams) (v : Word) : Int := (c.minTicks : Int) + normalized v * (c.scale : Int) / 65536

/-- The pseudocode of CONVERT (R105). -/
def convertCode (slot : Nat) (v : Word) : Pseudocode :=
  .immediate (fun s => s.complete (u32 (cycleOf (s.cfg.slot slot) v)))

/-- CONVERT s, v (R105). -/
def execConvert (slot : Nat) (v : Word) (s : State) : Host.Outcome State Fault Refusal :=
  .next ((convertCode slot v).run s)

end Sys2Proof.Machine
end

