-- ==== Sys2Proof/Machine/ChannelSend.lean ====
section
/-! DEFINITION. SEND: the channel write path (41_channel_send.md R120–R128). -/

namespace Sys2Proof.Machine

/-- `sh = (cycle + 1) >>> 4`, where `>>> 4` is `floor((cycle + 1) / 16)` (R121). -/
def downsample (cycle : Int) : Int := (cycle + 1) / 16

/-- `sh` of the value `v` on the slot's converter. -/
def shiftedCycle (c : SlotParams) (v : Word) : Int := downsample (cycleOf c v)

/-- `PWM_ADDR(SLOT_CH[s])` (R122). -/
def slotAddr (slot : Nat) : Byte := pwmAddr (slotChannel slot)

/-- OFF fits its 16-bit word (R123). -/
def fitsOff (sh : Int) : Bool := decide (0 ≤ sh) && decide (sh ≤ 0xFFFF)

/-- OFF as it is sent: `sh[15:0]` (R120). -/
def offWord (sh : Int) : Half := BitVec.ofInt 16 sh

/-- The pseudocode of SEND (R120). What is sent depends on the block's configuration, so it is a function of the state's. -/
def sendCode (slot : Nat) (v : Word) (cfg : Cfg) : Pseudocode :=
  .oneAccess
    (fun s => if fitsOff (shiftedCycle (cfg.slot slot) v) then s.goto .lock else s.raise (encodeRange (slotAddr slot)))
    (slotAddr slot)
    (fun dev => memWrite dev (slotAddr slot) (pwmPayload 0 (offWord (shiftedCycle (cfg.slot slot) v))))
    (fun _ => (offWord (shiftedCycle (cfg.slot slot) v)).setWidth 32)

/-- SEND s, v (R120). -/
def execSend (slot : Nat) (v : Word) (s : State) : Host.Outcome State Fault Refusal :=
  .next ((sendCode slot v s.cfg).run s)

end Sys2Proof.Machine
end

