-- ==== Sys2Proof/Machine/DeviceInit.lean ====
section
/-! DEFINITION. PROBE and START: the device initialization sequencer (43_device_init.md R160–R181). -/

namespace Sys2Proof.Machine

/-! ### PROBE -/

/-- PROBE found the chip by the path 0 (empty write) or 1 (fallback read) (R161). -/
def probeFound (path : Word) (s : State) : State :=
  (if s.unlock.initState = .unprobed then s.unlock.setInit .present else s.unlock).complete path

/-- BLOCK after a transaction of PROBE (R161). The byte of the fallback read is discarded (R164). -/
def probeAnswered (got : Option (List Byte)) (s : State) : State :=
  match s.seq, got with
  | .probeWrite, some _ => probeFound 0 s
  | .probeWrite, none => s.goto .probeRead
  | .probeRead, some _ => probeFound 1 s
  | .probeRead, none => (s.setInit .notFound).raise (deviceNotFound s.cfg.dev)
  | _, _ => s

/-- The pseudocode of PROBE (R161). -/
def probeCode : Pseudocode where
  first := fun s => if s.initState = .notFound then s.raise seqError else s.goto .lock
  granted := State.goto .probeWrite
  request := fun s =>
    match s.seq with
    | .probeWrite => some (busWrite s.cfg.dev [])
    | .probeRead => some (busRead s.cfg.dev 1)
    | _ => none
  answered := probeAnswered
  settled := id

/-- PROBE (R161). -/
def execProbe (s : State) : Host.Outcome State Fault Refusal := .next (probeCode.run s)

/-! ### START -/

/-- The MODE byte of step 3: bit 7 clear, bit 4 (sleep) set, the rest of `M` (R172). -/
def sleepMode (m : Byte) : Byte := (m &&& 0x7F) ||| 0x10

/-- The MODE byte of step 7: bits 7 (restart) and 5 (auto-increment) set on top of `M` (R176). -/
def runMode (m : Byte) : Byte := m ||| 0xA0

/-- START may run in PRESENT, RUNNING and START_FAILED (R168, D18). -/
def startAllowed : InitState → Bool
  | .unprobed => false
  | .present => true
  | .running => true
  | .startFailed => true
  | .notFound => false

/-- The register address of a bring-up step's transaction (R177). -/
def bringUpReg : BringUpStep → Byte
  | .one => modeAddr
  | .two => modeAddr
  | .three => modeAddr
  | .four => prescaleAddr
  | .five => modeAddr
  | .seven => modeAddr

/-- The transaction of a bring-up step, `m` being the mode byte step 1 read (R170–R176). -/
def bringUpRequest (cfg : Cfg) (m : Byte) : BringUpStep → BusRequest
  | .one => memRead cfg.dev modeAddr 1
  | .two => memWrite cfg.dev modeAddr [0x00]
  | .three => memWrite cfg.dev modeAddr [sleepMode m]
  | .four => memWrite cfg.dev prescaleAddr [cfg.prescaleByte]
  | .five => memWrite cfg.dev modeAddr [m]
  | .seven => memWrite cfg.dev modeAddr [runMode m]

/-- The byte `M` that step 1 returned. -/
def modeByte (bytes : List Byte) : Byte :=
  match bytes with
  | b :: _ => b
  | [] => 0

/-- BLOCK after a bring-up step answered OK (R168). After step 5 it is at `WaitSettle()`, whose start is recorded (R222). -/
def bringUpNext (k : BringUpStep) (bytes : List Byte) (s : State) : State :=
  match k with
  | .one => (s.saveMode (modeByte bytes)).goto (.bringUp .two)
  | .two => s.goto (.bringUp .three)
  | .three => s.goto (.bringUp .four)
  | .four => s.goto (.bringUp .five)
  | .five => (s.record .settleStart).goto .settle
  | .seven => (s.unlock.setInit .running).complete ((runMode s.savedMode).setWidth 32)

/-- The error exit `fail(k, a)` (R177). -/
def bringUpFail (k : BringUpStep) (s : State) : State :=
  (s.setInit .startFailed).raise (busIo k.number (bringUpReg k) s.cfg.dev)

/-- BLOCK after a transaction of START. -/
def startAnswered (got : Option (List Byte)) (s : State) : State :=
  match s.seq, got with
  | .bringUp k, some bytes => bringUpNext k bytes s
  | .bringUp k, none => bringUpFail k s
  | _, _ => s

/-- The pseudocode of START (R168). -/
def startCode : Pseudocode where
  first := fun s => if startAllowed s.initState then s.goto .lock else s.raise seqError
  granted := State.goto (.bringUp .one)
  request := fun s =>
    match s.seq with
    | .bringUp k => some (bringUpRequest s.cfg s.savedMode k)
    | _ => none
  answered := startAnswered
  settled := State.goto (.bringUp .seven)

/-- START (R168). -/
def execStart (s : State) : Host.Outcome State Fault Refusal := .next (startCode.run s)

end Sys2Proof.Machine
end

