-- ==== Sys2Proof/Machine/RegisterAccess.lean ====
section
/-! DEFINITION. WRITE and READ: the register encoder/decoder (42_register_access.md R140–R150). -/

namespace Sys2Proof.Machine

/-- The pseudocode of WRITE MODE (R141). -/
def writeModeCode (b : Byte) : Pseudocode := .regWrite modeAddr [b] (b.setWidth 32)

/-- The pseudocode of WRITE PRESCALE (R142). -/
def writePrescaleCode (b : Byte) : Pseudocode := .regWrite prescaleAddr [b] (b.setWidth 32)

/-- The pseudocode of WRITE PWM (R144): RESULT is `{OFF, ON}`. -/
def writePwmCode (n : Nat) (on off : Half) : Pseudocode := .regWrite (pwmAddr n) (pwmPayload on off) (pairWord on off)

/-- The pseudocode of READ MODE (R145). -/
def readModeCode : Pseudocode := .regRead modeAddr 1 byteValue

/-- The pseudocode of READ PRESCALE (R146). -/
def readPrescaleCode : Pseudocode := .regRead prescaleAddr 1 byteValue

/-- The pseudocode of READ PWM (R147). -/
def readPwmCode (n : Nat) : Pseudocode := .regRead (pwmAddr n) 4 pwmValue

/-- WRITE MODE, b (R141). -/
def execWriteMode (b : Byte) (s : State) : Host.Outcome State Fault Refusal := .next ((writeModeCode b).run s)

/-- WRITE PRESCALE, b (R142). -/
def execWritePrescale (b : Byte) (s : State) : Host.Outcome State Fault Refusal := .next ((writePrescaleCode b).run s)

/-- WRITE PWM[n], on, off (R144). -/
def execWritePwm (n : Nat) (on off : Half) (s : State) : Host.Outcome State Fault Refusal :=
  .next ((writePwmCode n on off).run s)

/-- READ MODE (R145). -/
def execReadMode (s : State) : Host.Outcome State Fault Refusal := .next (readModeCode.run s)

/-- READ PRESCALE (R146). -/
def execReadPrescale (s : State) : Host.Outcome State Fault Refusal := .next (readPrescaleCode.run s)

/-- READ PWM[n] (R147). -/
def execReadPwm (n : Nat) (s : State) : Host.Outcome State Fault Refusal := .next ((readPwmCode n).run s)

end Sys2Proof.Machine
end

