-- ==== Sys2Proof/Machine/Dispatch.lean ====
section
/-! DEFINITION. The dispatch: one arm per command, each a direct call of its meaning. -/

namespace Sys2Proof.Machine

def exec (i : Instr) (s : State) : Host.Outcome State Fault Refusal :=
  match i with
  | .convert slot v => Sys2Proof.Machine.execConvert slot v s
  | .send slot v => Sys2Proof.Machine.execSend slot v s
  | .writeMode b => Sys2Proof.Machine.execWriteMode b s
  | .writePrescale b => Sys2Proof.Machine.execWritePrescale b s
  | .writePwm n on off => Sys2Proof.Machine.execWritePwm n on off s
  | .readMode => Sys2Proof.Machine.execReadMode s
  | .readPrescale => Sys2Proof.Machine.execReadPrescale s
  | .readPwm n => Sys2Proof.Machine.execReadPwm n s
  | .probe => Sys2Proof.Machine.execProbe s
  | .start => Sys2Proof.Machine.execStart s

end Sys2Proof.Machine
end

