-- ==== Sys2Proof/Machine/Step.lean ====
section
/-! DEFINITION. One step of the machine (10_state.md R20, R28). While `BUSY = 1` BLOCK carries on the command latched in CMD,
with the answers the environment gives; while `BUSY = 0` the host or OTHER moves. -/

namespace Sys2Proof.Machine

/-- One step. Decode comes first (R84): an illegal word completes with ILLEGAL_CMD, a legal one is carried out. -/
def step (s : State) : Host.Outcome State Fault Refusal :=
  if s.busy then
    match decode s.cmd with
    | .ok i => exec i s
    | .error _ => .next s.completeIllegal
  else .next s.idleStep

/-- `s` after the acceptance of the given word (R83): CMD is where a step fetches its command, so the very next step decodes and
runs this one (log entry 5). -/
def State.withFetchWord (s : State) (nbits w : Nat) : State := s.accept (tableWord nbits w)

end Sys2Proof.Machine
end

