-- ==== Sys2Proof/Machine/HostSide.lean ====
section
/-! DEFINITION. The host's side (45_host_commands.md R190–R206): what the source's controllers and facade send to the block. None
of it is part of the block (00_scope.md R5, R11); it is here so that the host's rules and the source's examples can be stated. -/

namespace Sys2Proof.Machine

/-! ### Exact operands and quantization (R190) -/

/-- The rational `num / den`, `den` being at least 1: host operands are exact decimals (R190). -/
structure Frac where
  num : Int
  den : Nat
deriving DecidableEq, Repr

namespace Frac

/-- A whole number. -/
def whole (n : Int) : Frac := ⟨n, 1⟩

/-- `a + b` -/
def add (a b : Frac) : Frac := ⟨a.num * b.den + b.num * a.den, a.den * b.den⟩

/-- `a * b` -/
def mul (a b : Frac) : Frac := ⟨a.num * b.num, a.den * b.den⟩

/-- `-a` -/
def neg (a : Frac) : Frac := ⟨-a.num, a.den⟩

/-- `0 ≤ a ≤ hi` -/
def within (a : Frac) (hi : Nat) : Bool := decide (0 ≤ a.num) && decide (a.num ≤ hi * a.den)

/-- `q(x) = floor(x * 65536 + 1/2)` (R190). -/
def q (x : Frac) : Int := (2 * x.num * 65536 + x.den) / (2 * x.den)

end Frac

/-! ### Controllers (R191–R197) -/

/-- A call of SteeringController or PedalController. -/
inductive ControllerCall where
  | left (a : Frac)
  | right (a : Frac)
  | neutral
  | forward (f : Frac)
  | backward (f : Frac)
  | brake
deriving DecidableEq, Repr

/-- The host's one error (R204). -/
inductive HostError where
  | invalidRange
deriving DecidableEq, Repr

/-- `(force + 1.0) * 0.5` (R195, R196). -/
def pedalValue (force : Frac) : Frac := (force.add (.whole 1)).mul ⟨1, 2⟩

/-- The SEND a controller call makes, or InvalidRange before any command is sent (R191–R197, R204). -/
def ControllerCall.instr : ControllerCall → Except HostError Instr
  | .left a =>
    if a.within 90 then .ok (.send 0 (u32 ((a.add (.whole 90)).mul ⟨1, 180⟩).q)) else .error .invalidRange
  | .right a => if a.within 90 then .ok (.send 0 (u32 (a.mul ⟨1, 180⟩).q)) else .error .invalidRange
  | .neutral => .ok (.send 0 (u32 (Frac.q ⟨90, 180⟩)))
  | .forward f =>
    if f.within 1 then .ok (.send 1 (u32 (pedalValue (f.add ⟨6, 1000⟩)).q)) else .error .invalidRange
  | .backward f =>
    if f.within 1 then .ok (.send 1 (u32 (pedalValue (f.neg.add ⟨-130, 1000⟩)).q)) else .error .invalidRange
  | .brake => .ok (.send 1 (u32 (pedalValue (.whole 0)).q))

/-! ### Facade (R198–R203) -/

/-- `Direction`: closed, MIDDLE being also written STRAIGHT (R203). -/
inductive Direction where
  | left | right | middle
deriving DecidableEq, Repr

/-- A facade operation. -/
inductive FacadeOp where
  | turn (d : Direction) (a sp : Frac)
  | straight (sp : Frac)
  | stop
  | reverse (d : Direction) (a sp : Frac)
deriving DecidableEq, Repr

/-- The steering call of a direction: none for MIDDLE (R198, R201, D28). -/
def steerCalls (a : Frac) : Direction → List ControllerCall
  | .left => [.left a]
  | .right => [.right a]
  | .middle => []

/-- The calls of a facade operation, in their fixed order (R198–R202). -/
def FacadeOp.calls : FacadeOp → List ControllerCall
  | .turn d a sp => .forward sp :: steerCalls a d
  | .straight sp => [.neutral, .forward sp]
  | .stop => [.neutral, .brake]
  | .reverse d a sp => .backward sp :: steerCalls a d

/-! ### Running them on the block (R202, R204–R206) -/

/-- How a host operation ended. -/
inductive HostEnd where
  | done
  /-- a call raised InvalidRange (R204) -/
  | invalidRange
  /-- a command completed with `CODE ≠ OK`, and the operation was ended (R205) -/
  | commandFailed
  /-- the block is still busy: the environment has no further move (R226) -/
  | waiting
deriving DecidableEq, Repr

/-- The host waits for `ready`, for at most `fuel` steps of the machine. -/
def State.waitReady : Nat → State → State
  | 0, s => s
  | fuel + 1, s =>
    if s.busy then
      match step s with
      | .next t => t.waitReady fuel
      | .fault _ => s
      | .refused _ => s
    else s

/-- The host presents a command and waits for its end. Every step of a busy block uses up a move of the environment or finds
none, so the fuel suffices for all there are. While `BUSY = 1` the host has no move (R83, R250) and makes none: the spec gives
such a call no meaning, and leaving the block as it is is the model's choice (DESIGN CHOICE, log entry 17). -/
def State.issue (i : Instr) (s : State) : State :=
  if s.busy then s else (s.accept (encode i)).waitReady (s.env.length + 1)

/-- Issues calls one after the other, each after the previous one has completed (R202), and ends at the first InvalidRange (R204)
or the first command that does not complete with OK (R205). Nothing is undone, nothing retried. Begun on a busy block it ends in
`waiting` at its first command (log entry 17). -/
def State.runCalls : List ControllerCall → State → State × HostEnd
  | [], s => (s, .done)
  | c :: cs, s =>
    match c.instr with
    | .error _ => (s, .invalidRange)
    | .ok i =>
      if (s.issue i).busy then (s.issue i, .waiting)
      else if (s.issue i).code = 0 then (s.issue i).runCalls cs
      else (s.issue i, .commandFailed)

/-- A facade operation on the block. -/
def State.runFacade (op : FacadeOp) (s : State) : State × HostEnd := s.runCalls op.calls

/-- `INIT`: PROBE, then START if and only if the PROBE completed with OK (R206). -/
def State.runInit (s : State) : State × HostEnd :=
  if (s.issue .probe).busy then (s.issue .probe, .waiting)
  else if (s.issue .probe).code = 0 then
    if ((s.issue .probe).issue .start).busy then ((s.issue .probe).issue .start, .waiting)
    else if ((s.issue .probe).issue .start).code = 0 then ((s.issue .probe).issue .start, .done)
    else ((s.issue .probe).issue .start, .commandFailed)
  else (s.issue .probe, .commandFailed)

end Sys2Proof.Machine
end

