-- ==== Sys2Proof/Machine/Assembler.lean ====
section
/-! DEFINITION. The assembly language of 30_encoding.md R85 and R86, one line at a time, on lists of characters. -/

namespace Sys2Proof.Machine

/-! ### Tokens -/

/-- The words of the language (R85, R86). -/
inductive Keyword where
  | convert | send | write | read | probe | start | mode | prescale | pwm
  | left | right | neutral | forward | backward | brake | turn | straight | stop | reverse | init | middle
deriving DecidableEq, Repr

/-- A token of a line: a keyword, the characters of a number, or a mark. -/
inductive Token where
  | kw (k : Keyword)
  | num (chars : List Char)
  | comma | opening | closing
deriving DecidableEq, Repr

/-- The spelling of the keywords. -/
def keywords : List (List Char × Keyword) :=
  [("CONVERT".toList, .convert), ("SEND".toList, .send), ("WRITE".toList, .write), ("READ".toList, .read),
   ("PROBE".toList, .probe), ("START".toList, .start), ("MODE".toList, .mode), ("PRESCALE".toList, .prescale),
   ("PWM".toList, .pwm), ("LEFT".toList, .left), ("RIGHT".toList, .right), ("NEUTRAL".toList, .neutral),
   ("FORWARD".toList, .forward), ("BACKWARD".toList, .backward), ("BRAKE".toList, .brake), ("TURN".toList, .turn),
   ("STRAIGHT".toList, .straight), ("STOP".toList, .stop), ("REVERSE".toList, .reverse), ("INIT".toList, .init),
   ("MIDDLE".toList, .middle)]

/-- The token of a run of characters (given last first) between marks and spaces: none for an empty one. -/
def wordToken (rev : List Char) : List Token :=
  match rev.reverse with
  | [] => []
  | cs =>
    match keywords.find? (fun e => decide (e.1 = cs)) with
    | some e => [.kw e.2]
    | none => [.num cs]

/-- The tokens of a line; `;` starts a comment (R85). `rev` holds the run of characters being read, last first. -/
def tokensFrom (rev : List Char) : List Char → List Token
  | [] => wordToken rev
  | c :: cs =>
    if c = ';' then wordToken rev
    else if c = ' ' || c = '\t' then wordToken rev ++ tokensFrom [] cs
    else if c = ',' then wordToken rev ++ .comma :: tokensFrom [] cs
    else if c = '[' then wordToken rev ++ .opening :: tokensFrom [] cs
    else if c = ']' then wordToken rev ++ .closing :: tokensFrom [] cs
    else tokensFrom (c :: rev) cs

/-! ### Numbers: decimal, or `0x` hexadecimal (R85) -/

/-- The value of a digit below the base. -/
def digitVal (base : Nat) (c : Char) : Option Nat :=
  let v :=
    if '0'.toNat ≤ c.toNat ∧ c.toNat ≤ '9'.toNat then c.toNat - '0'.toNat
    else if 'a'.toNat ≤ c.toNat ∧ c.toNat ≤ 'f'.toNat then c.toNat - 'a'.toNat + 10
    else if 'A'.toNat ≤ c.toNat ∧ c.toNat ≤ 'F'.toNat then c.toNat - 'A'.toNat + 10
    else base
  if v < base then some v else none

/-- The number with these digits after `acc`. -/
def digitsFrom (base : Nat) (acc : Nat) : List Char → Option Nat
  | [] => some acc
  | c :: cs =>
    match digitVal base c with
    | some d => digitsFrom base (acc * base + d) cs
    | none => none

/-- A number with at least one digit. -/
def digits (base : Nat) (cs : List Char) : Option Nat := if cs.isEmpty then none else digitsFrom base 0 cs

/-- A natural number. -/
def parseNat (cs : List Char) : Option Nat :=
  match cs with
  | '0' :: 'x' :: rest => digits 16 rest
  | _ => digits 10 cs

/-- A natural number below a bound. -/
def parseBelow (bound : Nat) (cs : List Char) : Option Nat :=
  match parseNat cs with
  | some n => if n < bound then some n else none
  | none => none

/-- An unsigned decimal fraction: digits, and a point with digits after it or none. -/
def parseUnsigned (cs : List Char) : Option Frac :=
  match cs.dropWhile (fun c => decide (c ≠ '.')) with
  | [] => (digits 10 cs).map (fun n => ⟨n, 1⟩)
  | _ :: after =>
    let before := cs.takeWhile (fun c => decide (c ≠ '.'))
    if before.isEmpty || after.isEmpty then none
    else (digits 10 (before ++ after)).map (fun n => ⟨n, 10 ^ after.length⟩)

/-- A signed decimal fraction (`0.75`, `-0.065`, `1`). -/
def parseFrac (cs : List Char) : Option Frac :=
  match cs with
  | '-' :: rest => (parseUnsigned rest).map Frac.neg
  | _ => parseUnsigned cs

/-- The DATA of a decimal fraction: accepted only when `v * 65536` is an integer in `-2^31 .. 2^31-1` (R85). -/
def exactData (v : Frac) : Option Word :=
  if v.num * 65536 % v.den = 0 ∧ -2147483648 ≤ v.num * 65536 / v.den ∧ v.num * 65536 / v.den ≤ 2147483647 then
    some (u32 (v.num * 65536 / v.den))
  else none

/-- A value `v`: a 32-bit hexadecimal pattern, taken as DATA as is, or a signed decimal fraction (R85). How many digits a pattern
has the spec shows (8) and does not say: any number of at least one whose value is below `2^32` is the model's choice (DESIGN
CHOICE, log entry 7). -/
def parseValue (cs : List Char) : Option Word :=
  match cs with
  | '0' :: 'x' :: _ => (parseBelow (2 ^ 32) cs).map (BitVec.ofNat 32)
  | _ => (parseFrac cs).bind exactData

/-! ### Lines -/

/-- What a line stands for. -/
inductive AsmLine where
  /-- nothing, or a comment -/
  | blank
  /-- one of the ten commands (R85) -/
  | command (i : Instr)
  /-- a controller operation (R86) -/
  | call (c : ControllerCall)
  /-- a facade operation (R86) -/
  | facade (op : FacadeOp)
  /-- `INIT`: PROBE, then START if it completed with OK (R86, R206) -/
  | init
deriving DecidableEq, Repr

/-- The direction operand of TURN and REVERSE. MIDDLE is also written STRAIGHT (R203). -/
def direction : Keyword → Option Direction
  | .left => some .left
  | .right => some .right
  | .middle => some .middle
  | .straight => some .middle
  | _ => none

/-- `d, a, sp` -/
def parseDirected (make : Direction → Frac → Frac → FacadeOp) (d : Keyword) (a sp : List Char) : Option AsmLine := do
  return .facade (make (← direction d) (← parseFrac a) (← parseFrac sp))

/-- The line its tokens stand for; `none` is an assembly error. -/
def parseTokens : List Token → Option AsmLine
  | [] => some .blank
  | [.kw .convert, .num s, .comma, .num v] => do return .command (.convert (← parseBelow 2 s) (← parseValue v))
  | [.kw .send, .num s, .comma, .num v] => do return .command (.send (← parseBelow 2 s) (← parseValue v))
  | [.kw .write, .kw .mode, .comma, .num b] => do return .command (.writeMode (BitVec.ofNat 8 (← parseBelow 256 b)))
  | [.kw .write, .kw .prescale, .comma, .num b] => do
    return .command (.writePrescale (BitVec.ofNat 8 (← parseBelow 256 b)))
  | [.kw .write, .kw .pwm, .opening, .num n, .closing, .comma, .num on, .comma, .num off] => do
    return .command (.writePwm (← parseBelow 16 n) (BitVec.ofNat 16 (← parseBelow 65536 on))
      (BitVec.ofNat 16 (← parseBelow 65536 off)))
  | [.kw .read, .kw .mode] => some (.command .readMode)
  | [.kw .read, .kw .prescale] => some (.command .readPrescale)
  | [.kw .read, .kw .pwm, .opening, .num n, .closing] => do return .command (.readPwm (← parseBelow 16 n))
  | [.kw .probe] => some (.command .probe)
  | [.kw .start] => some (.command .start)
  | [.kw .left, .num a] => do return .call (.left (← parseFrac a))
  | [.kw .right, .num a] => do return .call (.right (← parseFrac a))
  | [.kw .neutral] => some (.call .neutral)
  | [.kw .forward, .num f] => do return .call (.forward (← parseFrac f))
  | [.kw .backward, .num f] => do return .call (.backward (← parseFrac f))
  | [.kw .brake] => some (.call .brake)
  | [.kw .turn, .kw d, .comma, .num a, .comma, .num sp] => parseDirected .turn d a sp
  | [.kw .straight, .num sp] => do return .facade (.straight (← parseFrac sp))
  | [.kw .stop] => some (.facade .stop)
  | [.kw .reverse, .kw d, .comma, .num a, .comma, .num sp] => parseDirected .reverse d a sp
  | [.kw .init] => some .init
  | _ => none

/-- The words a list of controller calls expands to, up to the first that is out of range, which emits none (R86, R204). -/
def callWords : List ControllerCall → List CmdWord
  | [] => []
  | c :: cs =>
    match c.instr with
    | .ok i => encode i :: callWords cs
    | .error _ => []

/-- The words of a line whose expansion does not depend on the block's answers: all but INIT (R86). -/
def AsmLine.words : AsmLine → List CmdWord
  | .blank => []
  | .command i => [encode i]
  | .call c => callWords [c]
  | .facade op => callWords op.calls
  | .init => []

/-- One line of assembly text. -/
def assembleLine (text : List Char) : Option AsmLine := parseTokens (tokensFrom [] text)

end Sys2Proof.Machine
end

