-- ==== Sys2Proof/Machine/Fixture.lean ====
section
/-! DEFINITION. Chip fixture F (95_test_vectors.md §0): a chip that stores and returns what is written. It is no part of the
machine and no law of the bus (20_memory.md R57): a claim that uses it names it as its premise (42_register_access.md R150). -/

namespace Sys2Proof.Machine

/-! ### A register file in canonical form: addresses rising, and no entry that holds 0 -/

/-- The chip's registers: what is not listed reads as 0 (95 §0: "all 0 unless a vector gives start values"). -/
abbrev Chip := List Host.Cell

namespace Chip

/-- The register at an address. -/
def read (a : Nat) : Chip → Byte
  | [] => 0
  | (b, v) :: rest => if b = a then v else read a rest

/-- Addresses rise strictly from `lo` on, and no entry is 0. -/
def sortedFrom (lo : Nat) : Chip → Bool
  | [] => true
  | (b, v) :: rest => decide (lo ≤ b) && decide (v ≠ 0) && sortedFrom (b + 1) rest

/-- The canonical form. -/
def wf (c : Chip) : Bool := c.sortedFrom 0

/-- Puts `v` at `a` where it is not 0. -/
def put (a : Nat) (v : Byte) (rest : Chip) : Chip := if v = 0 then rest else (a, v) :: rest

/-- Writes one register, keeping the canonical form. -/
def write (a : Nat) (v : Byte) : Chip → Chip
  | [] => put a v []
  | (b, w) :: rest =>
    if a < b then put a v ((b, w) :: rest)
    else if a = b then put a v rest
    else (b, w) :: write a v rest

/-- `chip[a+i] <- pi` for each i. -/
def writeFrom (a : Nat) : List Byte → Chip → Chip
  | [], c => c
  | p :: ps, c => writeFrom (a + 1) ps (c.write a p)

/-- `chip[a..a+n-1]` -/
def readFrom (c : Chip) (a : Nat) : Nat → List Byte
  | 0 => []
  | n + 1 => c.read a :: readFrom c (a + 1) n

end Chip

/-! ### The block with the fixture on its bus -/

/-- A block, its fixture, the address the fixture answers at, the transactions (counted from 0) it answers FAIL whatever they
are, and how many there were. -/
structure Rig where
  block   : State
  chip    : Chip
  fixAddr : DevAddr
  failAt  : List Nat
  count   : Nat
deriving DecidableEq, Repr

/-- The pseudocode of a command on a block with this configuration. -/
def pseudocode (cfg : Cfg) : Instr → Pseudocode
  | .convert slot v => convertCode slot v
  | .send slot v => sendCode slot v cfg
  | .writeMode b => writeModeCode b
  | .writePrescale b => writePrescaleCode b
  | .writePwm n on off => writePwmCode n on off
  | .readMode => readModeCode
  | .readPrescale => readPrescaleCode
  | .readPwm n => readPwmCode n
  | .probe => probeCode
  | .start => startCode

/-- The transaction BUS has yet to answer, if the block waits for one. -/
def State.outstanding (s : State) : Option BusRequest :=
  match decode s.cmd with
  | .ok i => (pseudocode s.cfg i).request s
  | .error _ => none

/-- What the fixture's registers answer to a transaction, and what they become (95 §0). -/
def Chip.serve (c : Chip) (r : BusRequest) : Chip × BusAnswer :=
  match r.kind, r.out with
  | .write, [] => (c, .ok [])
  | .write, a :: ps => (c.writeFrom a.toNat ps, .ok [])
  | .writeRead, a :: _ => (c, .ok (c.readFrom a.toNat r.n))
  | .writeRead, [] => (c, .fail)
  | .read, _ => (c, .ok (c.readFrom 0 r.n))

namespace Rig

/-- The fixture answers a transaction: FAIL at another address or where the vector says so, which changes nothing. -/
def answer (r : BusRequest) (g : Rig) : Rig × BusAnswer :=
  if r.dev = g.fixAddr && !g.failAt.contains g.count then
    ({ g with chip := (g.chip.serve r).1, count := g.count + 1 }, (g.chip.serve r).2)
  else ({ g with count := g.count + 1 }, .fail)

/-- One step of the block with the given moves of the environment. -/
def advance (env : List EnvMove) (g : Rig) : Rig :=
  match step (g.block.setEnv env) with
  | .next t => { g with block := t }
  | .fault _ => g
  | .refused _ => g

/-- One step: at a wait point, with the one answer it waits for. -/
def next (g : Rig) : Rig :=
  match g.block.seq with
  | .lock => g.advance [.grant]
  | .settle => g.advance [.settle]
  | _ =>
    match g.block.outstanding with
    | some r => (g.answer r).1.advance [.answer (g.answer r).2]
    | none => g.advance []

/-- Steps until the block is ready. -/
def finish : Nat → Rig → Rig
  | 0, g => g
  | fuel + 1, g => if g.block.busy then finish fuel g.next else g

/-- Runs one command: no command has more than twelve wait points. On a busy block the host has no move (log entry 17). -/
def issue (w : CmdWord) (g : Rig) : Rig := if g.block.busy then g else finish 12 { g with block := g.block.accept w }

/-- Runs a list of commands. -/
def program : List CmdWord → Rig → Rig
  | [], g => g
  | w :: ws, g => program ws (g.issue w)

end Rig

end Sys2Proof.Machine
end

