-- ==== Sys2Proof/Safety.lean ====
section
/-! DEFINITION. What counts as a good state and a good history, in the terms the statements use. -/

namespace Sys2Proof.Machine

/-! ### Positions -/

/-- The lock is held at this point of a command's pseudocode (R55). -/
def Seq.locked : Seq → Bool
  | .idle => false
  | .start => false
  | .lock => false
  | .access => true
  | .probeWrite => true
  | .probeRead => true
  | .bringUp _ => true
  | .settle => true

/-- The points a command's pseudocode has (R28, R105, R120, R140, R143, R161, R168). -/
def seqFits : Instr → Seq → Bool
  | _, .idle => false
  | _, .start => true
  | .convert _ _, _ => false
  | .send _ _, q => decide (q = .lock ∨ q = .access)
  | .writeMode _, q => decide (q = .lock ∨ q = .access)
  | .writePrescale _, q => decide (q = .lock ∨ q = .access)
  | .writePwm _ _ _, q => decide (q = .lock ∨ q = .access)
  | .readMode, q => decide (q = .lock ∨ q = .access)
  | .readPrescale, q => decide (q = .lock ∨ q = .access)
  | .readPwm _, q => decide (q = .lock ∨ q = .access)
  | .probe, q => decide (q = .lock ∨ q = .probeWrite ∨ q = .probeRead)
  | .start, .lock => true
  | .start, .bringUp _ => true
  | .start, .settle => true
  | .start, _ => false

/-- Past its first internal step PROBE is not in NOT_FOUND, and START is where it may run (R161, R168). -/
def gateOk : Instr → InitState → Bool
  | .convert _ _, _ => true
  | .send _ _, _ => true
  | .writeMode _, _ => true
  | .writePrescale _, _ => true
  | .writePwm _ _ _, _ => true
  | .readMode, _ => true
  | .readPrescale, _ => true
  | .readPwm _, _ => true
  | .probe, x => decide (x ≠ .notFound)
  | .start, x => startAllowed x

/-! ### Histories -/

/-- Where a history stands: between commands, in a command before its lock, in its lock hold, in the settle wait, or after it. -/
inductive Phase where
  | between | unlocked | locked | settling | released
deriving DecidableEq, Repr

/-- The event may come next (R55, R60, R63, R83): transactions only while the lock is held, at most one lock hold a command, the
settle wait within it, one command at a time, and its Complete last. -/
def Phase.after : Phase → Event → Option Phase
  | .between, .accept _ => some .unlocked
  | .unlocked, .lock => some .locked
  | .unlocked, .complete _ _ => some .between
  | .locked, .tx _ _ => some .locked
  | .locked, .settleStart => some .settling
  | .settling, .settleEnd => some .locked
  | .locked, .unlock => some .released
  | .released, .complete _ _ => some .between
  | _, _ => none

/-- Where a history stands after more events; `none` once it breaks the discipline. -/
def phaseFrom : Phase → List Event → Option Phase
  | p, [] => some p
  | p, e :: es =>
    match p.after e with
    | some q => phaseFrom q es
    | none => none

/-- Where a history stands, from reset on. -/
def phaseOf (h : List Event) : Option Phase := phaseFrom .between h

/-- Where the history stands when SEQ is here. -/
def Seq.phase : Seq → Phase
  | .idle => .between
  | .start => .unlocked
  | .lock => .unlocked
  | .access => .locked
  | .probeWrite => .locked
  | .probeRead => .locked
  | .bringUp _ => .locked
  | .settle => .settling

/-- The transactions of a list of events, with their outcomes. -/
def txsOf : List Event → List (BusRequest × Option (List Byte))
  | [] => []
  | .tx r got :: es => (r, got) :: txsOf es
  | _ :: es => txsOf es

/-- The word last accepted, and the transactions since, after more events. -/
def commandFrom : Option CmdWord × List (BusRequest × Option (List Byte)) → List Event →
    Option CmdWord × List (BusRequest × Option (List Byte))
  | c, [] => c
  | _, .accept w :: es => commandFrom (some w, []) es
  | c, .tx r got :: es => commandFrom (c.1, c.2 ++ [(r, got)]) es
  | c, _ :: es => commandFrom c es

/-- The word last accepted in a history, and the transactions since. -/
def commandOf (h : List Event) : Option CmdWord × List (BusRequest × Option (List Byte)) := commandFrom (none, []) h

/-! ### STATUS -/

/-- What STATUS can hold (R23): the reserved bits 0, a code of R210, STICKY where the code is not OK, and each of STEP, ERR_REG
and ERR_DEV 0 but for the codes that record it. -/
def statusOk (st : Word) : Bool :=
  decide (st.extractLsb' 23 1 = 0) && decide (st.extractLsb' 28 3 = 0) && decide ((codeOf st).toNat ≤ 5)
    && (decide (codeOf st = 0) || decide (stickyOf st = 1))
    && (decide (stepOf st = 0) || (decide (codeOf st = Code.busIo.bits) && decide (lastOpOf st = 6)))
    && (decide (errRegOf st = 0) || decide (codeOf st = Code.busIo.bits) || decide (codeOf st = Code.encodeRange.bits))
    && (decide (errDevOf st = 0) || decide (codeOf st = Code.busIo.bits) || decide (codeOf st = Code.deviceNotFound.bits))

/-! ### The invariant -/

/-- What every state the machine reaches meets. -/
structure State.Inv (s : State) : Prop where
  /-- BUSY is 1 exactly while SEQ is not IDLE (R22, R28). -/
  busy_iff : s.busy = true ↔ s.seq ≠ .idle
  /-- The block holds the lock exactly from its grant on (R29, R55). -/
  lock_iff : s.lockHeld = s.seq.locked
  /-- The block and OTHER do not both hold the lock (R53, R65). -/
  exclusive : ¬(s.lockHeld = true ∧ s.otherHolds = true)
  /-- Past its start a command is legal, SEQ is a point of it, and its gate was open. -/
  position : s.seq = .idle ∨ s.seq = .start ∨ ∃ i, decode s.cmd = .ok i ∧ seqFits i s.seq = true ∧ gateOk i s.initState = true
  /-- The history keeps the discipline, and stands where SEQ stands. -/
  discipline : phaseOf s.history = some s.seq.phase
  /-- STATUS is one of R23. -/
  status_ok : statusOk s.status = true

/-! ### Terms of the statements -/

/-- The command `i` has just been accepted (R83): it is latched in CMD, BUSY is 1, and SEQ is at its start. -/
structure State.Accepted (i : Instr) (s : State) : Prop where
  wellFormed : i.wellFormed = true
  latched    : s.cmd = encode i
  busy       : s.busy = true
  atStart    : s.seq = .start
  unlocked   : s.lockHeld = false

/-- The environment serves the block: OTHER does not hold the lock, and the moves to come begin with BUS's grant, then these. -/
structure State.Served (moves rest : List EnvMove) (s : State) : Prop where
  free  : s.otherHolds = false
  moves : s.env = .grant :: moves ++ rest

/-- The answers of BUS to come. -/
def answers (as : List BusAnswer) : List EnvMove := as.map .answer

end Sys2Proof.Machine
end

