-- ==== Sys2Proof/Certificates/Slice0/Obligations.lean ====
section
/-! DEFINITION. The statements for the provers, from the numbered rules of spec/. -/

open Sys2Proof Sys2Proof.Machine

/-! ### Terms used by several statements -/

namespace Sys2Proof.Claims

/-- STATUS after an OK completion of a command with this OP (R218). -/
def okSt (s : State) (op : BitVec 4) : Word := statusWord (stickyOf s.status) op ⟨.ok, 0, 0, 0⟩

/-- STATUS after an error (R217): STICKY is 1. -/
def errSt (op : BitVec 4) (code : Code) (step : BitVec 4) (reg : Byte) (dev : DevAddr) : Word :=
  statusWord 1 op ⟨code, step, reg, dev⟩

/-- `s` at the end of a command that was accepted in `s` and took no lock: with this STATUS and RESULT. -/
def endedAtOnce (s : State) (st res : Word) : State :=
  { s with status := st, result := res, busy := false, seq := .idle, history := s.history ++ [.complete st res] }

/-- `s` at the end of a command that was accepted in `s` and had one lock hold with these events within it. -/
def endedUnderLock (s : State) (rest : List EnvMove) (inside : List Event) (st res : Word) : State :=
  { s with
    status := st, result := res, busy := false, seq := .idle, env := rest
    history := s.history ++ (.lock :: inside ++ [.unlock, .complete st res]) }

/-- The next move is a reset by the host (R240). -/
def resetNext (s : State) : Prop := s.busy = false ∧ s.hostQueue.head? = some .reset

/-- The transaction of bring-up step `k`, for the mode byte `m` and the prescale value `p` (R170–R176). -/
def stepTx (dev : DevAddr) (p : Nat) (m : Byte) : BringUpStep → BusRequest
  | .one => ⟨.writeRead, dev, [0x00], 1⟩
  | .two => ⟨.write, dev, [0x00, 0x00], 0⟩
  | .three => ⟨.write, dev, [0x00, (m &&& 0x7F) ||| 0x10], 0⟩
  | .four => ⟨.write, dev, [0xFE, BitVec.ofNat 8 p], 0⟩
  | .five => ⟨.write, dev, [0x00, m], 0⟩
  | .seven => ⟨.write, dev, [0x00, m ||| 0xA0], 0⟩

/-- The answers BUS and SETTLE_TIMER give before step `k`, all OK; `junk` is what an OK to a write may carry. -/
def movesBefore (m : Byte) (junk : List Byte) : BringUpStep → List EnvMove
  | .one => []
  | .two => [.answer (.ok [m])]
  | .three => [.answer (.ok [m]), .answer (.ok junk)]
  | .four => [.answer (.ok [m]), .answer (.ok junk), .answer (.ok junk)]
  | .five => [.answer (.ok [m]), .answer (.ok junk), .answer (.ok junk), .answer (.ok junk)]
  | .seven =>
    [.answer (.ok [m]), .answer (.ok junk), .answer (.ok junk), .answer (.ok junk), .answer (.ok junk), .settle]

/-- The events of START under its lock before step `k` (R178). -/
def eventsBefore (dev : DevAddr) (p : Nat) (m : Byte) : BringUpStep → List Event
  | .one => []
  | .two => [.tx (stepTx dev p m .one) (some [m])]
  | .three => [.tx (stepTx dev p m .one) (some [m]), .tx (stepTx dev p m .two) (some [])]
  | .four =>
    [.tx (stepTx dev p m .one) (some [m]), .tx (stepTx dev p m .two) (some []), .tx (stepTx dev p m .three) (some [])]
  | .five =>
    [.tx (stepTx dev p m .one) (some [m]), .tx (stepTx dev p m .two) (some []), .tx (stepTx dev p m .three) (some []),
     .tx (stepTx dev p m .four) (some [])]
  | .seven =>
    [.tx (stepTx dev p m .one) (some [m]), .tx (stepTx dev p m .two) (some []), .tx (stepTx dev p m .three) (some []),
     .tx (stepTx dev p m .four) (some []), .tx (stepTx dev p m .five) (some []), .settleStart, .settleEnd]

/-- The transactions of START under its lock before step `k`, with their outcomes. -/
def txsBefore (dev : DevAddr) (p : Nat) (m : Byte) (k : BringUpStep) : List (BusRequest × Option (List Byte)) :=
  txsOf (eventsBefore dev p m k)

/-- What a START wrote before its PRESCALE write: it read a mode byte `m`, cleared MODE, and set MODE to `m` with bit 4 (sleep)
set; each answered OK. -/
def sleepsAfterRead (dev : DevAddr) (txs : List (BusRequest × Option (List Byte))) : Prop :=
  ∃ m : Byte, ((m &&& 0x7F) ||| 0x10).getLsbD 4 = true ∧
    txs = [(⟨.writeRead, dev, [0x00], 1⟩, some [m]), (⟨.write, dev, [0x00, 0x00], 0⟩, some []),
      (⟨.write, dev, [0x00, (m &&& 0x7F) ||| 0x10], 0⟩, some [])]

/-- The history of a state as the bring-up makes it, over any number of steps. -/
structure BringUpTrace (s : State) : Prop where
  /-- The command that runs is the one last accepted. -/
  accepted : s.busy = true → (commandOf s.history).1 = some s.cmd
  /-- Before its first transaction START has issued none. -/
  before : decode s.cmd = .ok .start → s.seq = .start ∨ s.seq = .lock → (commandOf s.history).2 = []
  /-- At a step of the bring-up START has issued the steps before it, in order, with the mode byte in SAVED_MODE. -/
  soFar : ∀ k, decode s.cmd = .ok .start → s.seq = .bringUp k →
    (commandOf s.history).2 = txsBefore s.cfg.dev s.cfg.params.prescaleVal s.savedMode k
  /-- At the settle wait it has issued the first five. -/
  atSettle : decode s.cmd = .ok .start → s.seq = .settle →
    (commandOf s.history).2 = txsBefore s.cfg.dev s.cfg.params.prescaleVal s.savedMode .seven
  /-- Every PRESCALE write of a START carries PRESCALE_VAL, and the sleep bit was set right before it (R179). -/
  underSleep : ∀ (before after : List Event) (r : BusRequest) (got : Option (List Byte)) (ps : List Byte) (w : CmdWord),
    s.history = before ++ .tx r got :: after → r.out = 0xFE :: ps → (commandOf before).1 = some w → decode w = .ok .start →
    ps = [BitVec.ofNat 8 s.cfg.params.prescaleVal] ∧ sleepsAfterRead s.cfg.dev (commandOf before).2

/-- INIT_STATE after a command that ended with this code, by the table of R160. -/
def initAfter : Except DecodeError Instr → BitVec 4 → InitState → InitState
  | .ok .probe, c, x =>
    if x = .unprobed ∧ c = 0 then .present else if x ≠ .notFound ∧ c = 5 then .notFound else x
  | .ok .start, c, x =>
    if x = .unprobed ∨ x = .notFound then x else if c = 0 then .running else if c = 4 then .startFailed else x
  | _, _, x => x

/-- The chip registers a command addresses, each with its payload length (R51, R80, R81). -/
def registersOf : Instr → List (Byte × Nat)
  | .convert _ _ => []
  | .send k _ => [(if k = 0 then 0x06 else 0x0A, 4)]
  | .writeMode _ => [(0x00, 1)]
  | .writePrescale _ => [(0xFE, 1)]
  | .writePwm n _ _ => [(BitVec.ofNat 8 (0x06 + 4 * n), 4)]
  | .readMode => [(0x00, 1)]
  | .readPrescale => [(0xFE, 1)]
  | .readPwm n => [(BitVec.ofNat 8 (0x06 + 4 * n), 4)]
  | .probe => []
  | .start => [(0x00, 1), (0xFE, 1)]

/-- A command with one transaction: SEND, WRITE or READ. -/
def oneTransaction : Instr → Prop
  | .convert _ _ => False
  | .send _ _ => True
  | .writeMode _ => True
  | .writePrescale _ => True
  | .writePwm _ _ _ => True
  | .readMode => True
  | .readPrescale => True
  | .readPwm _ => True
  | .probe => False
  | .start => False

/-- The value of a fraction. -/
def val (x : Frac) : ℚ := (x.num : ℚ) / (x.den : ℚ)

/-- `floor(x * 65536 + 1/2)` of a rational, as a 32-bit pattern (R190). -/
def quantized (x : ℚ) : Word := BitVec.ofInt 32 ⌊x * 65536 + 1 / 2⌋

end Sys2Proof.Claims

open Sys2Proof.Claims

/-! ### Encoding -/

/-- Decoding the word of a well-formed command gives the command back, with every operand (R71, R72). -/
def Obligations.DecodeInvertsEncode : Prop :=
  ∀ i : Instr, i.wellFormed = true → decode (encode i) = .ok i

/-- A word that decodes is the word of the well-formed command it decodes to: no bit of a legal word is dropped (R71, R72). -/
def Obligations.EncodeInvertsDecode : Prop :=
  ∀ (w : CmdWord) (i : Instr), decode w = .ok i → i.wellFormed = true ∧ encode i = w

/-- R72: a word is legal exactly when it matches one row of the opcode map, the rows are mutually exclusive, and a legal word
selects the command of its row. -/
def Obligations.LegalWordsMatchExactlyOneRow : Prop :=
  ∀ w : CmdWord,
    (opcodeTable.filter (fun r => r.fits w)).length ≤ 1 ∧
    ((∃ i, decode w = .ok i) ↔ (opcodeTable.filter (fun r => r.fits w)).length = 1) ∧
    (∀ i, decode w = .ok i → opcodeTable.filter (fun r => r.fits w) = [i.row])

/-- R87: the eleven worked encodings, assembled and decoded. -/
def Obligations.WorkedEncodingsAssembleAndDecode : Prop :=
  ((assembleLine "CONVERT 0, 0.75".toList).map AsmLine.words = some [0x0000C00000000001#64] ∧
    decode 0x0000C00000000001#64 = .ok (.convert 0 0x0000C000#32)) ∧
  ((assembleLine "SEND 0, 0.75".toList).map AsmLine.words = some [0x0000C00000000002#64] ∧
    decode 0x0000C00000000002#64 = .ok (.send 0 0x0000C000#32)) ∧
  ((assembleLine "SEND 1, 0.5".toList).map AsmLine.words = some [0x0000800000000402#64] ∧
    decode 0x0000800000000402#64 = .ok (.send 1 0x00008000#32)) ∧
  ((assembleLine "WRITE MODE, 0xA1".toList).map AsmLine.words = some [0x000000A100000003#64] ∧
    decode 0x000000A100000003#64 = .ok (.writeMode 0xA1#8)) ∧
  ((assembleLine "WRITE PRESCALE, 122".toList).map AsmLine.words = some [0x0000007A00000013#64] ∧
    decode 0x0000007A00000013#64 = .ok (.writePrescale 122#8)) ∧
  ((assembleLine "WRITE PWM[2], 0, 384".toList).map AsmLine.words = some [0x01800000000000A3#64] ∧
    decode 0x01800000000000A3#64 = .ok (.writePwm 2 0#16 384#16)) ∧
  ((assembleLine "READ MODE".toList).map AsmLine.words = some [0x0000000000000004#64] ∧
    decode 0x0000000000000004#64 = .ok .readMode) ∧
  ((assembleLine "READ PRESCALE".toList).map AsmLine.words = some [0x0000000000000014#64] ∧
    decode 0x0000000000000014#64 = .ok .readPrescale) ∧
  ((assembleLine "READ PWM[15]".toList).map AsmLine.words = some [0x00000000000003E4#64] ∧
    decode 0x00000000000003E4#64 = .ok (.readPwm 15)) ∧
  ((assembleLine "PROBE".toList).map AsmLine.words = some [0x0000000000000005#64] ∧
    decode 0x0000000000000005#64 = .ok .probe) ∧
  ((assembleLine "START".toList).map AsmLine.words = some [0x0000000000000006#64] ∧
    decode 0x0000000000000006#64 = .ok .start)

/-! ### The step -/

/-- While BUSY is 1 and the word in CMD decodes to a command, a step is that command's meaning (R84). -/
def Obligations.StepRunsTheLatchedCommand : Prop :=
  ∀ (s : State) (i : Instr), s.busy = true → decode s.cmd = .ok i → step s = exec i s

/-- The word that withFetchWord places is the one the very next step runs (log entry 5: the model's own way in). -/
def Obligations.FetchedWordRunsNext : Prop :=
  ∀ (s : State) (nbits w : Nat) (i : Instr), decodeTableWord nbits w = some i →
    step (s.withFetchWord nbits w) = exec i (s.withFetchWord nbits w)

/-- R83: `ready` is the complement of BUSY; while BUSY is 0 the host's word is accepted in one step; while BUSY is 1 no move of
the host is taken. -/
def Obligations.AcceptanceLatchesOneCommand : Prop :=
  (∀ s : State, s.ready = !s.busy) ∧
  (∀ (s : State) (w : CmdWord) (rest : List HostMove), s.busy = false → s.hostQueue = .present w :: rest →
    step s = .next { s with
      hostQueue := rest, cmd := w, busy := true, seq := .start, history := s.history ++ [.accept w] }) ∧
  (∀ s t : State, s.busy = true → step s = .next t → t.hostQueue = s.hostQueue)

/-- R66: nothing the block does changes the command it runs, and it changes no command the host has yet to present. -/
def Obligations.RunningCommandIsLatched : Prop :=
  ∀ s t : State, s.busy = true → step s = .next t → t.cmd = s.cmd ∧ t.hostQueue = s.hostQueue

/-- R211: an illegal word ends with ILLEGAL_CMD; no lock is taken, nothing is sent, RESULT stays. -/
def Obligations.IllegalWordEndsAtOnce : Prop :=
  ∀ (s : State) (e : DecodeError), s.busy = true → s.seq = .start → s.lockHeld = false → decode s.cmd = .error e →
    step s = .next (endedAtOnce s (errSt (opOf s.cmd) .illegalCmd 0 0 0) s.result)

/-- R240, R36: reset, given while BUSY is 0, puts the block's state at its reset values in one step and leaves the
configuration; the state after reset has these values. -/
def Obligations.ResetRestoresEveryRegister : Prop :=
  (∀ (s : State) (rest : List HostMove), s.busy = false → s.hostQueue = .reset :: rest →
    step s = .next
      { cfg := s.cfg, busy := false, cmd := 0, status := 0x00000000, result := 0x00000000, initState := .unprobed,
        savedMode := 0x00, lockHeld := false, seq := .idle, history := [], otherHolds := s.otherHolds, env := s.env,
        hostQueue := rest }) ∧
  (State.reset.busy = false ∧ State.reset.cmd = 0 ∧ State.reset.status = 0x00000000 ∧ State.reset.result = 0x00000000 ∧
    State.reset.initState = .unprobed ∧ State.reset.initStateOut = 0 ∧ State.reset.savedMode = 0x00 ∧
    State.reset.lockHeld = false ∧ State.reset.seq = .idle ∧ State.reset.history = [])

/-- Every step has a next state: an error is a report in STATUS, never a trap (R210), and a hang is no fault (R226). -/
def Obligations.EveryStepHasANextState : Prop :=
  ∀ s : State, ∃ t, step s = .next t

/-- With no move to come the block waits: in IDLE (R242), and at a wait point with BUSY = 1 (R226). -/
def Obligations.BlockWaitsWithoutMoves : Prop :=
  (∀ s : State, s.busy = false → s.hostQueue = [] → s.env = [] → step s = .next s) ∧
  (∀ (s : State) (i : Instr), s.busy = true → decode s.cmd = .ok i → s.seq ≠ .start → s.env = [] → step s = .next s)

/-- The invariants hold after reset, whatever the configuration. OTHER not holding the lock then is log entry 3's choice. -/
def Obligations.InvariantHoldsAtReset : Prop :=
  (∀ cfg : Cfg, (State.resetWith cfg).Inv ∧ BringUpTrace (State.resetWith cfg)) ∧ State.reset.Inv ∧ BringUpTrace State.reset

/-- Every step keeps the invariant: BUSY, SEQ and LOCK_HELD agree, the lock has at most one holder, the history keeps the lock
discipline, a command past its start is legal with its gate open, and STATUS is one of R23. -/
def Obligations.StepKeepsInvariant : Prop :=
  ∀ s t : State, s.Inv → step s = .next t → t.Inv

/-! ### CONVERT -/

/-- R105: CONVERT completes at once with `u32(MIN_TICKS + floor(V * SCALE / 65536))`; it takes no lock, sends nothing and changes
nothing else. -/
def Obligations.ConvertCompletesWithCycle : Prop :=
  ∀ (s : State) (k : Nat) (v : Word), s.Accepted (.convert k v) →
    exec (.convert k v) s = .next (endedAtOnce s (okSt s 0x1)
      (BitVec.ofInt 32 ((s.cfg.slot k).minTicks + ⌊(v.toInt : ℚ) * ((s.cfg.slot k).scale : ℚ) / 65536⌋)))

/-- R110: the final step is floor, for negative products too; floor and truncation differ exactly where the product is negative
and no multiple of 65536. -/
def Obligations.CycleRoundsTowardMinusInfinity : Prop :=
  (∀ (c : SlotParams) (v : Word), cycleOf c v = c.minTicks + ⌊(v.toInt : ℚ) * (c.scale : ℚ) / 65536⌋) ∧
  (∀ c : SlotParams, c.minTicks = 2457 → c.scale = 4915 → cycleOf c 0xFFFFFFFF#32 = 2456) ∧
  (∀ p : Int, p.tdiv 65536 ≠ ⌊(p : ℚ) / 65536⌋ ↔ p < 0 ∧ ¬(65536 ∣ p))

/-- R107: the result fits signed 32 bits for every value; it is a tick count of the slot's range for a value in [0, 1]; outside
it may leave 0..65535. -/
def Obligations.CycleFitsThirtyTwoBits : Prop :=
  (∀ (c : SlotParams) (v : Word), c.valid = true →
    -2147450880 ≤ cycleOf c v ∧ cycleOf c v ≤ 2147450879 ∧ (u32 (cycleOf c v)).toInt = cycleOf c v ∧
    (0 ≤ v.toInt → v.toInt ≤ 65536 → (c.minTicks : Int) ≤ cycleOf c v ∧ cycleOf c v ≤ c.maxTicks)) ∧
  (∃ (c : SlotParams) (v : Word), c.valid = true ∧ cycleOf c v < 0) ∧
  (∃ (c : SlotParams) (v : Word), c.valid = true ∧ 65535 < cycleOf c v)

/-- R108: 0.0 gives MIN_TICKS and 1.0 gives MAX_TICKS. -/
def Obligations.CycleAtTheEndsOfTheRange : Prop :=
  ∀ c : SlotParams, c.valid = true →
    cycleOf c 0x00000000#32 = c.minTicks ∧
    cycleOf c 0x00010000#32 = (c.minTicks : Int) + c.scale ∧ cycleOf c 0x00010000#32 = c.maxTicks

/-- R109: cycle does not decrease as V grows, and is MIN_TICKS for every V where SCALE is 0. -/
def Obligations.CycleIsMonotone : Prop :=
  (∀ (c : SlotParams) (v w : Word), v.toInt ≤ w.toInt → cycleOf c v ≤ cycleOf c w) ∧
  (∀ (c : SlotParams) (v : Word), c.scale = 0 → cycleOf c v = c.minTicks)

/-- R112: the datapath of a 48-bit signed product, its bits 47:16 and a 32-bit adder gives the same result. The adder does not
overflow: the 32-bit sum, read as a signed number, is the cycle. -/
def Obligations.DatapathComputesCycle : Prop :=
  ∀ (c : SlotParams) (v : Word), c.valid = true →
    ((v.signExtend 48) * BitVec.ofNat 48 c.scale).toInt = v.toInt * c.scale ∧
    (((v.signExtend 48) * BitVec.ofNat 48 c.scale).extractLsb' 16 32 + BitVec.ofNat 32 c.minTicks) = u32 (cycleOf c v) ∧
    (((v.signExtend 48) * BitVec.ofNat 48 c.scale).extractLsb' 16 32).toInt + (c.minTicks : Int) = cycleOf c v ∧
    (((v.signExtend 48) * BitVec.ofNat 48 c.scale).extractLsb' 16 32 + BitVec.ofNat 32 c.minTicks).toInt = cycleOf c v

/-- No clamping, exactly: the count is below MIN_TICKS if and only if V is below 0 and SCALE is not 0; it is no less than MAX_TICKS
if and only if V is at least 1 or SCALE is 0; and it is above MAX_TICKS if and only if the excess over 1 is worth a tick. The spec's
R106 says it more simply, and too strongly at its edges (log entry 8). -/
def Obligations.CycleIsNotClamped : Prop :=
  ∀ (c : SlotParams) (v : Word), c.valid = true →
    (cycleOf c v < c.minTicks ↔ v.toInt < 0 ∧ 0 < c.scale) ∧
    ((c.maxTicks : Int) ≤ cycleOf c v ↔ 65536 ≤ v.toInt ∨ c.scale = 0) ∧
    ((c.maxTicks : Int) < cycleOf c v ↔ 65536 ≤ (v.toInt - 65536) * c.scale)

/-! ### Derived constants -/

/-- R101: ticks is the exact floor, and the source's example. -/
def Obligations.TicksAreExactFloors : Prop :=
  (∀ p f : Nat, (ticks p f : Int) = ⌊(p : ℚ) * (f : ℚ) * 65535 / 1000000⌋) ∧
  (∀ c : SlotParams, c.minTicks = ticks c.minUs c.freqHz ∧ c.maxTicks = ticks c.maxUs c.freqHz) ∧
  ticks 750 50 = 2457 ∧ ticks 2250 50 = 7372

/-- R103: the bounds of the converter constants. -/
def Obligations.ConverterConstantsAreBounded : Prop :=
  (∀ p p' f : Nat, p ≤ p' → ticks p f ≤ ticks p' f) ∧
  (∀ c : SlotParams, c.minUs < c.maxUs → c.minTicks ≤ c.maxTicks) ∧
  (∀ c : SlotParams, c.maxTicks ≤ 65535 ↔ c.maxUs * c.freqHz ≤ 1000015) ∧
  (∀ c : SlotParams, c.valid = true → c.minTicks ≤ c.maxTicks ∧ c.maxTicks ≤ 65535 ∧ c.scale ≤ 65535 - c.minTicks) ∧
  (∀ c : SlotParams, ¬(c.minTicks ≤ c.maxTicks ∧ c.maxTicks ≤ 65535) → c.valid = false) ∧
  (∃ c : SlotParams, c.valid = true ∧ c.scale = 0)

/-- R104: the prescale is the exact rounding of the quotient, an exact half goes up, and a configuration whose value does not
fit a byte is refused. -/
def Obligations.PrescaleRoundsToNearest : Prop :=
  (∀ c : Params, 1 ≤ c.pwmFreqHz →
    (c.prescaleVal : Int) = ⌊(c.clockHz : ℚ) / 4096 / (c.pwmFreqHz : ℚ) + 1 / 2⌋) ∧
  (∀ c : Params, c.prescaleVal = (2 * c.clockHz + 4096 * c.pwmFreqHz) / (8192 * c.pwmFreqHz)) ∧
  (∀ c : Params, c.pwmFreqHz = 50 → c.clockHz = 716800 → c.prescaleVal = 4) ∧
  (∀ c : Params, 255 < c.prescaleVal → c.valid = false) ∧
  (∀ c : Cfg, c.prescaleByte.toNat = c.params.prescaleVal)

/-! ### SEND -/

/-- R125: the rounding bias of the downsampling. -/
def Obligations.DownsamplingRoundsUpOnlyAtFifteen : Prop :=
  (∀ c : Int, downsample c = if c % 16 = 15 then c / 16 + 1 else c / 16) ∧
  downsample 6143 = 384 ∧ downsample 6142 = 383 ∧ downsample (-1) = 0

/-- A value in [0, 1]: what the downsampling gives for it, and that an accepted SEND of it goes past the range check to `Lock()`, so
that it is still running or has ended with OK or BUS_IO, never with ENCODE_RANGE. The spec's R124 leaves out that a slot with
MIN_TICKS = MAX_TICKS = 65535 sends 4096 for every value (log entry 8). -/
def Obligations.SendInRangeIsNeverRefused : Prop :=
  (∀ (c : SlotParams) (v : Word), c.valid = true → 0 ≤ v.toInt → v.toInt ≤ 65536 →
    ((c.minTicks : Int) + 1) / 16 ≤ shiftedCycle c v ∧ shiftedCycle c v ≤ ((c.maxTicks : Int) + 1) / 16 ∧
    0 ≤ shiftedCycle c v ∧ shiftedCycle c v ≤ 4096 ∧ fitsOff (shiftedCycle c v) = true ∧
    (shiftedCycle c v = 4096 → c.maxTicks = 65535 ∧ (v = 0x00010000#32 ∨ c.scale = 0))) ∧
  (∀ (s t : State) (k : Nat) (v : Word), s.Accepted (.send k v) → 0 ≤ v.toInt → v.toInt ≤ 65536 →
    exec (.send k v) s = .next t →
    t.busy = true ∨ (t.busy = false ∧ (codeOf t.status = 0 ∨ codeOf t.status = 4)))

/-- R123: OFF does not fit exactly for `cycle ≤ -2` and `cycle ≥ 1048575`; SEND then ends with ENCODE_RANGE and the channel's
address, with no lock and no transaction. -/
def Obligations.SendRefusesWhatDoesNotFit : Prop :=
  (∀ c : Int, (downsample c < 0 ↔ c ≤ -2) ∧ (65535 < downsample c ↔ 1048575 ≤ c)) ∧
  (∀ (s : State) (k : Nat) (v : Word), s.Accepted (.send k v) →
    (cycleOf (s.cfg.slot k) v ≤ -2 ∨ 1048575 ≤ cycleOf (s.cfg.slot k) v) →
    exec (.send k v) s =
      .next (endedAtOnce s (errSt 0x2 .encodeRange 0 (if k = 0 then 0x06 else 0x0A) 0) s.result)) ∧
  (∀ (c : SlotParams) (v : Word), c.valid = true → (cycleOf c v ≤ -2 ∨ 1048575 ≤ cycleOf c v) →
    v.toInt < 0 ∨ 65536 < v.toInt)

/-- R120: SEND computes the cycle, downsamples it, and writes (0, sh) to the slot's channel under one lock hold; what does not
fit is refused, and a FAIL is BUS_IO. -/
def Obligations.SendWritesTheChannel : Prop :=
  ∀ (s : State) (k : Nat) (v : Word) (sh : Int) (a : Byte) (rest : List EnvMove) (junk : List Byte),
    s.Accepted (.send k v) →
    sh = ⌊((((s.cfg.slot k).minTicks : Int) + ⌊(v.toInt : ℚ) * ((s.cfg.slot k).scale : ℚ) / 65536⌋ + 1 : Int) : ℚ) / 16⌋ →
    a = (if k = 0 then 0x06 else 0x0A) →
    (sh < 0 ∨ 0xFFFF < sh → exec (.send k v) s = .next (endedAtOnce s (errSt 0x2 .encodeRange 0 a 0) s.result)) ∧
    (0 ≤ sh → sh ≤ 0xFFFF → s.Served [.answer (.ok junk)] rest →
      exec (.send k v) s = .next (endedUnderLock s rest
        [.tx ⟨.write, s.cfg.dev, [a, 0x00, 0x00, BitVec.ofInt 8 sh, BitVec.ofInt 8 (sh / 256)], 0⟩ (some [])]
        (okSt s 0x2) (BitVec.ofInt 32 sh))) ∧
    (0 ≤ sh → sh ≤ 0xFFFF → s.Served [.answer .fail] rest →
      exec (.send k v) s = .next (endedUnderLock s rest
        [.tx ⟨.write, s.cfg.dev, [a, 0x00, 0x00, BitVec.ofInt 8 sh, BitVec.ofInt 8 (sh / 256)], 0⟩ none]
        (errSt 0x2 .busIo 0 a s.cfg.dev) s.result))

/-- The bus bytes of a SEND depend only on CMD and CFG, not on earlier commands, and it writes no block state but STATUS, RESULT,
BUSY and what goes with them (R128). -/
def Obligations.SendKeepsNoState : Prop :=
  ∀ (s s' t t' : State) (k : Nat) (v : Word) (es es' : List Event),
    s.Accepted (.send k v) → s'.Accepted (.send k v) →
    s'.cfg = s.cfg → s'.env = s.env → s'.otherHolds = s.otherHolds →
    exec (.send k v) s = .next t → exec (.send k v) s' = .next t' →
    t.history = s.history ++ es → t'.history = s'.history ++ es' →
    txsOf es = txsOf es' ∧ t.initState = s.initState ∧ t.savedMode = s.savedMode ∧ t.cfg = s.cfg ∧ t.cmd = s.cmd

/-! ### WRITE and READ -/

/-- R141, R142: WRITE MODE and WRITE PRESCALE send the address and the byte in one transaction under one lock hold and complete
with the byte; a FAIL is BUS_IO with the register's address. -/
def Obligations.WriteByteRegisters : Prop :=
  ∀ (s : State) (b : Byte) (rest : List EnvMove) (junk : List Byte),
    (s.Accepted (.writeMode b) → s.Served [.answer (.ok junk)] rest →
      exec (.writeMode b) s = .next (endedUnderLock s rest
        [.tx ⟨.write, s.cfg.dev, [0x00, b], 0⟩ (some [])] (okSt s 0x3) (b.setWidth 32))) ∧
    (s.Accepted (.writeMode b) → s.Served [.answer .fail] rest →
      exec (.writeMode b) s = .next (endedUnderLock s rest
        [.tx ⟨.write, s.cfg.dev, [0x00, b], 0⟩ none] (errSt 0x3 .busIo 0 0x00 s.cfg.dev) s.result)) ∧
    (s.Accepted (.writePrescale b) → s.Served [.answer (.ok junk)] rest →
      exec (.writePrescale b) s = .next (endedUnderLock s rest
        [.tx ⟨.write, s.cfg.dev, [0xFE, b], 0⟩ (some [])] (okSt s 0x3) (b.setWidth 32))) ∧
    (s.Accepted (.writePrescale b) → s.Served [.answer .fail] rest →
      exec (.writePrescale b) s = .next (endedUnderLock s rest
        [.tx ⟨.write, s.cfg.dev, [0xFE, b], 0⟩ none] (errSt 0x3 .busIo 0 0xFE s.cfg.dev) s.result))

/-- R144: WRITE PWM sends the address, then ON and OFF low byte first, and completes with {OFF, ON}. -/
def Obligations.WritePwmSendsThePair : Prop :=
  ∀ (s : State) (n : Nat) (on off : Half) (rest : List EnvMove) (junk : List Byte) (frame : List Byte),
    s.Accepted (.writePwm n on off) →
    frame = [BitVec.ofNat 8 (0x06 + 4 * n), BitVec.ofNat 8 on.toNat, BitVec.ofNat 8 (on.toNat / 256),
      BitVec.ofNat 8 off.toNat, BitVec.ofNat 8 (off.toNat / 256)] →
    (s.Served [.answer (.ok junk)] rest →
      exec (.writePwm n on off) s = .next (endedUnderLock s rest
        [.tx ⟨.write, s.cfg.dev, frame, 0⟩ (some [])] (okSt s 0x3)
        (BitVec.ofNat 32 (off.toNat * 65536 + on.toNat)))) ∧
    (s.Served [.answer .fail] rest →
      exec (.writePwm n on off) s = .next (endedUnderLock s rest
        [.tx ⟨.write, s.cfg.dev, frame, 0⟩ none]
        (errSt 0x3 .busIo 0 (BitVec.ofNat 8 (0x06 + 4 * n)) s.cfg.dev) s.result))

/-- R145, R146: READ MODE and READ PRESCALE complete with the byte BUS returns, whatever it is; a FAIL is BUS_IO. -/
def Obligations.ReadByteRegisters : Prop :=
  ∀ (s : State) (b : Byte) (rest : List EnvMove),
    (s.Accepted .readMode → s.Served [.answer (.ok [b])] rest →
      exec .readMode s = .next (endedUnderLock s rest
        [.tx ⟨.writeRead, s.cfg.dev, [0x00], 1⟩ (some [b])] (okSt s 0x4) (b.setWidth 32))) ∧
    (s.Accepted .readMode → s.Served [.answer .fail] rest →
      exec .readMode s = .next (endedUnderLock s rest
        [.tx ⟨.writeRead, s.cfg.dev, [0x00], 1⟩ none] (errSt 0x4 .busIo 0 0x00 s.cfg.dev) s.result)) ∧
    (s.Accepted .readPrescale → s.Served [.answer (.ok [b])] rest →
      exec .readPrescale s = .next (endedUnderLock s rest
        [.tx ⟨.writeRead, s.cfg.dev, [0xFE], 1⟩ (some [b])] (okSt s 0x4) (b.setWidth 32))) ∧
    (s.Accepted .readPrescale → s.Served [.answer .fail] rest →
      exec .readPrescale s = .next (endedUnderLock s rest
        [.tx ⟨.writeRead, s.cfg.dev, [0xFE], 1⟩ none] (errSt 0x4 .busIo 0 0xFE s.cfg.dev) s.result))

/-- R147: READ PWM completes with {OFF, ON}, decoded low byte first from the four bytes BUS returns; a FAIL is BUS_IO. -/
def Obligations.ReadPwmDecodesThePair : Prop :=
  ∀ (s : State) (n : Nat) (b0 b1 b2 b3 : Byte) (rest : List EnvMove), s.Accepted (.readPwm n) →
    (s.Served [.answer (.ok [b0, b1, b2, b3])] rest →
      exec (.readPwm n) s = .next (endedUnderLock s rest
        [.tx ⟨.writeRead, s.cfg.dev, [BitVec.ofNat 8 (0x06 + 4 * n)], 4⟩ (some [b0, b1, b2, b3])] (okSt s 0x4)
        (BitVec.ofNat 32 (((b3.toNat * 256 + b2.toNat) * 256 + b1.toNat) * 256 + b0.toNat)))) ∧
    (s.Served [.answer .fail] rest →
      exec (.readPwm n) s = .next (endedUnderLock s rest
        [.tx ⟨.writeRead, s.cfg.dev, [BitVec.ofNat 8 (0x06 + 4 * n)], 4⟩ none]
        (errSt 0x4 .busIo 0 (BitVec.ofNat 8 (0x06 + 4 * n)) s.cfg.dev) s.result))

/-- A read answered OK with another number of bytes than asked for counts as FAIL (D15): READ PWM, READ MODE and READ PRESCALE then
end with BUS_IO, START ends at its step 1, and PROBE's fallback read has failed. D15 says it of a short read; that a longer list
counts so too is the model's choice (log entry 6). -/
def Obligations.ShortReadCountsAsFail : Prop :=
  ∀ (s : State) (bytes : List Byte) (rest : List EnvMove),
    (∀ n : Nat, s.Accepted (.readPwm n) → s.Served [.answer (.ok bytes)] rest → bytes.length ≠ 4 →
      exec (.readPwm n) s = .next (endedUnderLock s rest
        [.tx ⟨.writeRead, s.cfg.dev, [BitVec.ofNat 8 (0x06 + 4 * n)], 4⟩ none]
        (errSt 0x4 .busIo 0 (BitVec.ofNat 8 (0x06 + 4 * n)) s.cfg.dev) s.result)) ∧
    (s.Accepted .readMode → s.Served [.answer (.ok bytes)] rest → bytes.length ≠ 1 →
      exec .readMode s = .next (endedUnderLock s rest
        [.tx ⟨.writeRead, s.cfg.dev, [0x00], 1⟩ none] (errSt 0x4 .busIo 0 0x00 s.cfg.dev) s.result)) ∧
    (s.Accepted .readPrescale → s.Served [.answer (.ok bytes)] rest → bytes.length ≠ 1 →
      exec .readPrescale s = .next (endedUnderLock s rest
        [.tx ⟨.writeRead, s.cfg.dev, [0xFE], 1⟩ none] (errSt 0x4 .busIo 0 0xFE s.cfg.dev) s.result)) ∧
    (s.Accepted .start → (s.initState = .present ∨ s.initState = .running ∨ s.initState = .startFailed) →
      s.Served [.answer (.ok bytes)] rest → bytes.length ≠ 1 →
      exec .start s = .next { endedUnderLock s rest
        [.tx ⟨.writeRead, s.cfg.dev, [0x00], 1⟩ none] (errSt 0x6 .busIo 1 0x00 s.cfg.dev) s.result with
        initState := .startFailed }) ∧
    (s.Accepted .probe → s.initState ≠ .notFound → s.Served [.answer .fail, .answer (.ok bytes)] rest → bytes.length ≠ 1 →
      exec .probe s = .next { endedUnderLock s rest
        [.tx ⟨.write, s.cfg.dev, [], 0⟩ none, .tx ⟨.read, s.cfg.dev, [], 1⟩ none]
        (errSt 0x5 .deviceNotFound 0 0 s.cfg.dev) s.result with
        initState := .notFound })

/-- With chip fixture F on the bus at DEV_ADDR, failing nothing, a READ after a WRITE of the same register gives what was written
(R150; the fixture is the premise, no law of the bus). -/
def Obligations.FixtureRoundTrip : Prop :=
  ∀ (g : Rig), g.block.busy = false → g.block.lockHeld = false → g.block.otherHolds = false →
    g.fixAddr = g.block.cfg.dev → g.failAt = [] → g.chip.wf = true →
    (∀ (n : Nat) (on off : Half), n < 16 →
      ((g.issue (encode (.writePwm n on off))).issue (encode (.readPwm n))).block.result =
        BitVec.ofNat 32 (off.toNat * 65536 + on.toNat)) ∧
    (∀ b : Byte, ((g.issue (encode (.writeMode b))).issue (encode .readMode)).block.result = b.setWidth 32) ∧
    (∀ b : Byte, ((g.issue (encode (.writePrescale b))).issue (encode .readPrescale)).block.result = b.setWidth 32)

/-- R126, R149: SEND, WRITE and READ do not read INIT_STATE: they do the same in every initialization state. -/
def Obligations.BusCommandsAreNotGated : Prop :=
  ∀ (i : Instr) (s t : State) (x : InitState), oneTransaction i → exec i s = .next t →
    exec i { s with initState := x } = .next { t with initState := x }

/-! ### PROBE and START -/

/-- R161–R164: PROBE by the answers to its empty write and its fallback read, whose byte is discarded, under one lock hold
released on every exit. -/
def Obligations.ProbeByItsAnswers : Prop :=
  ∀ (s : State) (b : Byte) (rest : List EnvMove) (junk : List Byte), s.Accepted .probe →
    (s.initState = .notFound → exec .probe s = .next (endedAtOnce s (errSt 0x5 .seqError 0 0 0) s.result)) ∧
    (s.initState ≠ .notFound → s.Served [.answer (.ok junk)] rest →
      exec .probe s = .next { endedUnderLock s rest
        [.tx ⟨.write, s.cfg.dev, [], 0⟩ (some [])] (okSt s 0x5) 0x00000000 with
        initState := if s.initState = .unprobed then .present else s.initState }) ∧
    (s.initState ≠ .notFound → s.Served [.answer .fail, .answer (.ok [b])] rest →
      exec .probe s = .next { endedUnderLock s rest
        [.tx ⟨.write, s.cfg.dev, [], 0⟩ none, .tx ⟨.read, s.cfg.dev, [], 1⟩ (some [b])] (okSt s 0x5) 0x00000001 with
        initState := if s.initState = .unprobed then .present else s.initState }) ∧
    (s.initState ≠ .notFound → s.Served [.answer .fail, .answer .fail] rest →
      exec .probe s = .next { endedUnderLock s rest
        [.tx ⟨.write, s.cfg.dev, [], 0⟩ none, .tx ⟨.read, s.cfg.dev, [], 1⟩ none]
        (errSt 0x5 .deviceNotFound 0 0 s.cfg.dev) s.result with
        initState := .notFound })

/-- R178: a START whose every answer is OK writes exactly the source's sequence for the mode byte M it read, in order, under one
lock hold, with the settle wait before its last write, and completes with M | 0xA0 in RUNNING. -/
def Obligations.StartRunsTheBringUp : Prop :=
  ∀ (s : State) (m : Byte) (rest : List EnvMove) (junk : List Byte), s.Accepted .start →
    (s.initState = .present ∨ s.initState = .running ∨ s.initState = .startFailed) →
    s.Served (movesBefore m junk .seven ++ [.answer (.ok junk)]) rest →
    exec .start s = .next { endedUnderLock s rest
      [.tx ⟨.writeRead, s.cfg.dev, [0x00], 1⟩ (some [m]),
       .tx ⟨.write, s.cfg.dev, [0x00, 0x00], 0⟩ (some []),
       .tx ⟨.write, s.cfg.dev, [0x00, (m &&& 0x7F) ||| 0x10], 0⟩ (some []),
       .tx ⟨.write, s.cfg.dev, [0xFE, BitVec.ofNat 8 s.cfg.params.prescaleVal], 0⟩ (some []),
       .tx ⟨.write, s.cfg.dev, [0x00, m], 0⟩ (some []),
       .settleStart, .settleEnd,
       .tx ⟨.write, s.cfg.dev, [0x00, m ||| 0xA0], 0⟩ (some [])]
      (okSt s 0x6) ((m ||| 0xA0).setWidth 32) with
      initState := .running, savedMode := m }

/-- R177: at the first step answered FAIL, START stops, releases the lock, goes to START_FAILED and reports the step and its
register; no later step is issued and nothing is rolled back. -/
def Obligations.StartStopsAtTheFirstFailure : Prop :=
  ∀ (s : State) (k : BringUpStep) (m : Byte) (rest : List EnvMove) (junk : List Byte), s.Accepted .start →
    (s.initState = .present ∨ s.initState = .running ∨ s.initState = .startFailed) →
    s.Served (movesBefore m junk k ++ [.answer .fail]) rest →
    exec .start s = .next { endedUnderLock s rest
      (eventsBefore s.cfg.dev s.cfg.params.prescaleVal m k ++ [.tx (stepTx s.cfg.dev s.cfg.params.prescaleVal m k) none])
      (errSt 0x6 .busIo k.number (if k = .four then 0xFE else 0x00) s.cfg.dev) s.result with
      initState := .startFailed, savedMode := if k = .one then s.savedMode else m }

/-- R212: SEQ_ERROR is raised, before any lock or transaction, by PROBE in NOT_FOUND and by START in UNPROBED and NOT_FOUND, and in
no other case; INIT_STATE stays. -/
def Obligations.SequenceErrorsAreTheTwoGates : Prop :=
  (∀ s : State, s.Accepted .probe → s.initState = .notFound →
    exec .probe s = .next (endedAtOnce s (errSt 0x5 .seqError 0 0 0) s.result)) ∧
  (∀ s : State, s.Accepted .start → (s.initState = .unprobed ∨ s.initState = .notFound) →
    exec .start s = .next (endedAtOnce s (errSt 0x6 .seqError 0 0 0) s.result)) ∧
  (∀ s t : State, s.Inv → s.busy = true → step s = .next t → t.busy = false → codeOf t.status = 2 →
    t.initState = s.initState ∧ t.lockHeld = false ∧ t.history = s.history ++ [.complete t.status t.result] ∧
    ((decode s.cmd = .ok .probe ∧ s.initState = .notFound) ∨
      (decode s.cmd = .ok .start ∧ (s.initState = .unprobed ∨ s.initState = .notFound))))

/-- R160: INIT_STATE moves only at the end of a PROBE or a START, by the table; and by reset. -/
def Obligations.InitStateMovesByItsTable : Prop :=
  (∀ s t : State, s.Inv → s.busy = true → step s = .next t →
    t.initState = if t.busy then s.initState else initAfter (decode s.cmd) (codeOf t.status) s.initState) ∧
  (∀ s t : State, s.busy = false → step s = .next t → ¬resetNext s → t.initState = s.initState)

/-- NOT_FOUND is final until reset (R165). -/
def Obligations.NotFoundIsFinalUntilReset : Prop :=
  ∀ s t : State, s.Inv → s.initState = .notFound → step s = .next t → ¬resetNext s → t.initState = .notFound

/-- R179: what START writes to PRESCALE is PRESCALE_VAL, right after it wrote MODE with bit 4 (sleep) set on top of the byte it
read, whatever that byte is. The first clause says it of the step that begins a START; the second says it of every START in the
history, however many steps it was cut into, as an invariant that every step keeps. -/
def Obligations.PrescaleIsWrittenUnderSleep : Prop :=
  (∀ (s t : State) (before after : List Event) (r : BusRequest) (got : Option (List Byte)) (ps : List Byte),
    s.Accepted .start → exec .start s = .next t →
    t.history = s.history ++ (before ++ .tx r got :: after) → r.out = 0xFE :: ps →
    ps = [BitVec.ofNat 8 s.cfg.params.prescaleVal] ∧ sleepsAfterRead s.cfg.dev (txsOf before)) ∧
  (∀ s t : State, s.Inv → BringUpTrace s → step s = .next t → BringUpTrace t)

/-- R180, R181: which bits of M the bring-up's MODE writes keep. -/
def Obligations.BringUpKeepsTheBitsItDoesNotOwn : Prop :=
  ∀ (dev : DevAddr) (cfg : Cfg) (m : Byte), cfg.dev = dev →
    (∃ b2 b3 b5 b7 : Byte,
      bringUpRequest cfg m .two = ⟨.write, dev, [0x00, b2], 0⟩ ∧ bringUpRequest cfg m .three = ⟨.write, dev, [0x00, b3], 0⟩ ∧
      bringUpRequest cfg m .five = ⟨.write, dev, [0x00, b5], 0⟩ ∧ bringUpRequest cfg m .seven = ⟨.write, dev, [0x00, b7], 0⟩ ∧
      b2 = 0 ∧
      (∀ i : Nat, i = 0 ∨ i = 1 ∨ i = 2 ∨ i = 3 ∨ i = 6 →
        b3.getLsbD i = m.getLsbD i ∧ b5.getLsbD i = m.getLsbD i ∧ b7.getLsbD i = m.getLsbD i) ∧
      b5 = m ∧ b7.getLsbD 4 = m.getLsbD 4 ∧ b7.getLsbD 5 = true ∧ b7.getLsbD 7 = true)

/-! ### STATUS, RESULT, SAVED_MODE -/

/-- R23: a STATUS word has its fields at their places, and its reserved bits are 0. The numbers of the codes (R210), of the bring-up
steps (R177) and of the initialization states (R26). -/
def Obligations.StatusFieldsStandWhereTheyShould : Prop :=
  (∀ (sticky : BitVec 1) (op : BitVec 4) (e : ErrInfo),
    codeOf (statusWord sticky op e) = e.code.bits ∧ stepOf (statusWord sticky op e) = e.step ∧
    errRegOf (statusWord sticky op e) = e.errReg ∧ errDevOf (statusWord sticky op e) = e.errDev ∧
    lastOpOf (statusWord sticky op e) = op ∧ stickyOf (statusWord sticky op e) = sticky ∧
    (statusWord sticky op e).getLsbD 23 = false ∧ (statusWord sticky op e).getLsbD 28 = false ∧
    (statusWord sticky op e).getLsbD 29 = false ∧ (statusWord sticky op e).getLsbD 30 = false) ∧
  (Code.ok.bits = 0 ∧ Code.illegalCmd.bits = 1 ∧ Code.seqError.bits = 2 ∧ Code.encodeRange.bits = 3 ∧ Code.busIo.bits = 4 ∧
    Code.deviceNotFound.bits = 5) ∧
  (BringUpStep.one.number = 1 ∧ BringUpStep.two.number = 2 ∧ BringUpStep.three.number = 3 ∧ BringUpStep.four.number = 4 ∧
    BringUpStep.five.number = 5 ∧ BringUpStep.seven.number = 7) ∧
  (InitState.unprobed.code = 0 ∧ InitState.present.code = 1 ∧ InitState.running.code = 2 ∧ InitState.startFailed.code = 3 ∧
    InitState.notFound.code = 4)

/-- R24: STATUS is written only at command completion, then every field: CODE is one of R210, LAST_OP is the command's, ERR_DEV is
DEV_ADDR for BUS_IO and DEVICE_NOT_FOUND and 0 otherwise, ERR_REG is 0 but for BUS_IO and ENCODE_RANGE, STEP is 0 but for a START
ending in BUS_IO, where it is a step with a transaction (R23), the reserved bits are 0, and STICKY becomes 1 at an error and stays
otherwise. Only reset clears it. -/
def Obligations.StatusIsWrittenOnlyAtCompletion : Prop :=
  (∀ s t : State, s.busy = true → step s = .next t → t.busy = true → t.status = s.status) ∧
  (∀ s t : State, s.busy = true → step s = .next t → t.busy = false →
    (codeOf t.status).toNat ≤ 5 ∧ lastOpOf t.status = opOf s.cmd ∧
    (errDevOf t.status = if codeOf t.status = 4 ∨ codeOf t.status = 5 then s.cfg.dev else 0) ∧
    (codeOf t.status ≠ 3 → codeOf t.status ≠ 4 → errRegOf t.status = 0) ∧
    (if codeOf t.status = 4 ∧ decode s.cmd = .ok .start then
      stepOf t.status = 1 ∨ stepOf t.status = 2 ∨ stepOf t.status = 3 ∨ stepOf t.status = 4 ∨ stepOf t.status = 5 ∨
        stepOf t.status = 7
      else stepOf t.status = 0) ∧
    t.status.extractLsb' 23 1 = 0 ∧ t.status.extractLsb' 28 3 = 0 ∧
    stickyOf t.status = if codeOf t.status = 0 then stickyOf s.status else 1) ∧
  (∀ s t : State, s.busy = false → step s = .next t → ¬resetNext s → t.status = s.status)

/-- RESULT is written only when a command completes with OK; an error leaves it unchanged (R25). -/
def Obligations.ResultIsWrittenOnlyOnOk : Prop :=
  ∀ s t : State, step s = .next t → ¬resetNext s → t.result ≠ s.result →
    s.busy = true ∧ t.busy = false ∧ codeOf t.status = 0

/-- Only START writes SAVED_MODE, and at the start of a command no other register of the outcome depends on its value (R27). -/
def Obligations.SavedModeBetweenCommandsIsUnobservable : Prop :=
  (∀ (i : Instr) (s t : State), exec i s = .next t → i ≠ .start → t.savedMode = s.savedMode) ∧
  (∀ (i : Instr) (s t t' : State) (m : Byte), s.seq = .start → exec i s = .next t →
    exec i { s with savedMode := m } = .next t' → t' = { t with savedMode := t'.savedMode })

/-! ### Lock, ordering, agents -/

/-- R53: at `Lock()` the block waits for as long as OTHER holds the lock, with no limit and nothing recorded; the grant sets
LOCK_HELD and is recorded. -/
def Obligations.LockWaitsForTheGrant : Prop :=
  (∀ (s t : State) (i : Instr), s.busy = true → decode s.cmd = .ok i → s.seq = .lock → s.otherHolds = true →
    EnvMove.otherUnlock ∉ s.env → step s = .next t →
    t.busy = true ∧ t.seq = .lock ∧ t.otherHolds = true ∧ t.lockHeld = s.lockHeld ∧ t.history = s.history) ∧
  (∀ (s t : State) (i : Instr), s.busy = true → decode s.cmd = .ok i → s.seq = .lock → s.otherHolds = false →
    s.env = [.grant] → step s = .next t → t.busy = true ∧ t.lockHeld = true ∧ t.history = s.history ++ [.lock])

/-- Every transaction in the history of a state that meets the invariant stands within a lock hold: a Lock before it, with no
Unlock in between (R55). -/
def Obligations.TransactionsOnlyUnderTheLock : Prop :=
  ∀ (s : State) (before after : List Event) (r : BusRequest) (got : Option (List Byte)), s.Inv →
    s.history = before ++ .tx r got :: after →
    ∃ a b, before = a ++ .lock :: b ∧ Event.unlock ∉ b

/-- When BUSY falls every transaction of the command has been answered and the lock is released: the last two events of a command
that took the lock are Unlock and Complete (R63, R64). -/
def Obligations.CompletionReleasesTheLock : Prop :=
  ∀ s t : State, s.Inv → s.busy = true → step s = .next t → t.busy = false →
    t.lockHeld = false ∧ t.seq = .idle ∧
    ∃ es, t.history = s.history ++ (es ++ [.complete t.status t.result]) ∧
      (s.lockHeld = true ∨ Event.lock ∈ es → es.getLast? = some .unlock)

/-- A step in which no agent answers changes nothing in the end: a run cut by a delay and resumed ends where the run without it
ends (R28, R259: any number of steps between two answers). -/
def Obligations.DelaysAreInvisible : Prop :=
  ∀ (i : Instr) (s t : State) (first later : List EnvMove), s.busy = true → s.env = first ++ .delay :: later →
    EnvMove.delay ∉ first → exec i s = .next t → t.busy = true → exec i t = exec i { s with env := first ++ later }

/-- No step changes the configuration (R21, R240), and, but for reset, a step only appends to the event history (R60). -/
def Obligations.ConfigurationStaysAndHistoryGrows : Prop :=
  (∀ s t : State, step s = .next t → t.cfg = s.cfg) ∧
  (∀ s t : State, step s = .next t → ¬resetNext s → ∃ es, t.history = s.history ++ es)

/-! ### Frames -/

/-- Frame of SEND, WRITE and READ: CMD, the configuration, INIT_STATE, SAVED_MODE and the host's moves are unchanged whatever the
answers; STATUS and RESULT are unchanged while the command is still waiting. -/
def Obligations.FrameOfBusCommands : Prop :=
  ∀ (i : Instr) (s t : State), oneTransaction i → exec i s = .next t →
    t.cfg = s.cfg ∧ t.cmd = s.cmd ∧ t.initState = s.initState ∧ t.savedMode = s.savedMode ∧ t.hostQueue = s.hostQueue ∧
    (s.busy = true → t.busy = true → t.status = s.status ∧ t.result = s.result)

/-- Frame of CONVERT, just accepted: only STATUS, RESULT, BUSY, SEQ and the history change. -/
def Obligations.FrameOfConvert : Prop :=
  ∀ (s t : State) (k : Nat) (v : Word), s.Accepted (.convert k v) → exec (.convert k v) s = .next t →
    t.cfg = s.cfg ∧ t.cmd = s.cmd ∧ t.initState = s.initState ∧ t.savedMode = s.savedMode ∧ t.lockHeld = s.lockHeld ∧
    t.otherHolds = s.otherHolds ∧ t.env = s.env ∧ t.hostQueue = s.hostQueue ∧ txsOf t.history = txsOf s.history

/-- Frame of PROBE and START: CMD, the configuration and the host's moves are unchanged whatever the answers, SAVED_MODE is
unchanged by PROBE, and STATUS, RESULT and INIT_STATE are unchanged while the command is still waiting. -/
def Obligations.FrameOfProbeAndStart : Prop :=
  (∀ s t : State, exec .probe s = .next t →
    t.cfg = s.cfg ∧ t.cmd = s.cmd ∧ t.hostQueue = s.hostQueue ∧ t.savedMode = s.savedMode ∧
    (s.busy = true → t.busy = true → t.status = s.status ∧ t.result = s.result ∧ t.initState = s.initState)) ∧
  (∀ s t : State, exec .start s = .next t →
    t.cfg = s.cfg ∧ t.cmd = s.cmd ∧ t.hostQueue = s.hostQueue ∧
    (s.busy = true → t.busy = true → t.status = s.status ∧ t.result = s.result ∧ t.initState = s.initState))

/-- The frame at the chip: whatever the answers, a command's transactions go to DEV_ADDR; PROBE's are the empty write and the
one-byte read, which no other command issues (R56, R82); every other transaction is a write of one of the command's own registers
with exactly that register's payload, or a read of it with exactly its length (R51, R80, R81). -/
def Obligations.CommandsTouchOnlyTheirRegisters : Prop :=
  ∀ (i : Instr) (s t : State) (es : List Event), s.Accepted i → exec i s = .next t → t.history = s.history ++ es →
    ∀ x ∈ txsOf es,
      (i = .probe ∧ (x.1 = ⟨.write, s.cfg.dev, [], 0⟩ ∨ x.1 = ⟨.read, s.cfg.dev, [], 1⟩)) ∨
      ∃ a n, (a, n) ∈ registersOf i ∧
        (x.1 = ⟨.writeRead, s.cfg.dev, [a], n⟩ ∨
          ∃ payload : List Byte, payload.length = n ∧ x.1 = ⟨.write, s.cfg.dev, a :: payload, 0⟩)

/-! ### The host's side -/

/-- R190: q is the exact rounding to nearest, halves up. -/
def Obligations.QuantizationRoundsToNearest : Prop :=
  ∀ x : Frac, 1 ≤ x.den → x.q = ⌊val x * 65536 + 1 / 2⌋

/-- R191–R193: the steering calls. -/
def Obligations.SteeringCallsSendTheirAngles : Prop :=
  (∀ a : Frac, 1 ≤ a.den → (val a < 0 ∨ 90 < val a) →
    (ControllerCall.left a).instr = .error .invalidRange ∧ (ControllerCall.right a).instr = .error .invalidRange) ∧
  (∀ a : Frac, 1 ≤ a.den → 0 ≤ val a → val a ≤ 90 →
    (ControllerCall.left a).instr = .ok (.send 0 (quantized ((val a + 90) / 180))) ∧
    (ControllerCall.right a).instr = .ok (.send 0 (quantized (val a / 180)))) ∧
  ControllerCall.neutral.instr = .ok (.send 0 0x00008000#32)

/-- R195–R197: the pedal calls, with the trims +0.006 and -0.13. -/
def Obligations.PedalCallsSendTheirForces : Prop :=
  (∀ f : Frac, 1 ≤ f.den → (val f < 0 ∨ 1 < val f) →
    (ControllerCall.forward f).instr = .error .invalidRange ∧ (ControllerCall.backward f).instr = .error .invalidRange) ∧
  (∀ f : Frac, 1 ≤ f.den → 0 ≤ val f → val f ≤ 1 →
    (ControllerCall.forward f).instr = .ok (.send 1 (quantized (((val f + 6 / 1000) + 1) * (1 / 2)))) ∧
    (ControllerCall.backward f).instr = .ok (.send 1 (quantized (((-val f - 13 / 100) + 1) * (1 / 2))))) ∧
  ControllerCall.brake.instr = .ok (.send 1 0x00008000#32)
end

