-- ==== Sys2Proof/Laws/Chip.lean ====
section
/-! SUPPORT. The fixture's register file: writes keep the canonical form, a read after a write of the same register gives the
value, and a write leaves every other register alone. -/

namespace Sys2Proof.Machine.Chip

theorem sortedFrom_cons {lo b : Nat} {w : Byte} {rest : Chip} :
    sortedFrom lo ((b, w) :: rest) = true ↔ lo ≤ b ∧ w ≠ 0 ∧ sortedFrom (b + 1) rest = true := by
  simp only [sortedFrom, Bool.and_eq_true, decide_eq_true_eq, and_assoc]

theorem sortedFrom_mono {c : Chip} {lo hi : Nat} (h : c.sortedFrom hi = true) (hle : lo ≤ hi) : c.sortedFrom lo = true := by
  cases c with
  | nil => rfl
  | cons e rest =>
    obtain ⟨h1, h2⟩ := sortedFrom_cons.mp h
    exact sortedFrom_cons.mpr ⟨by omega, h2⟩

theorem put_sorted {c : Chip} {a lo : Nat} (v : Byte) (hle : lo ≤ a) (h : c.sortedFrom (a + 1) = true) :
    (put a v c).sortedFrom lo = true := by
  unfold put
  split
  · exact sortedFrom_mono h (by omega)
  · exact sortedFrom_cons.mpr ⟨hle, ‹¬ v = 0›, h⟩

theorem write_sorted {c : Chip} {a lo : Nat} (v : Byte) (hle : lo ≤ a) (h : c.sortedFrom lo = true) :
    (c.write a v).sortedFrom lo = true := by
  induction c generalizing lo with
  | nil => exact put_sorted v hle rfl
  | cons e rest ih =>
    obtain ⟨b, w⟩ := e
    obtain ⟨h1, h2, h3⟩ := sortedFrom_cons.mp h
    simp only [write]
    split
    · exact put_sorted v hle (sortedFrom_cons.mpr ⟨by omega, h2, h3⟩)
    · split
      · subst_vars; exact put_sorted v hle h3
      · exact sortedFrom_cons.mpr ⟨h1, h2, ih (by omega) h3⟩

/-- A write keeps the canonical form. -/
theorem write_wf {c : Chip} (a : Nat) (v : Byte) (h : c.wf = true) : (c.write a v).wf = true :=
  write_sorted v (Nat.zero_le a) h

theorem writeFrom_wf {c : Chip} (a : Nat) (ps : List Byte) (h : c.wf = true) : (c.writeFrom a ps).wf = true := by
  induction ps generalizing a c with
  | nil => exact h
  | cons p ps ih => exact ih (a + 1) (write_wf a p h)

/-- What is below every listed address reads as 0. -/
theorem read_below {c : Chip} {a lo : Nat} (h : c.sortedFrom lo = true) (hlt : a < lo) : c.read a = 0 := by
  induction c generalizing lo with
  | nil => rfl
  | cons e rest ih =>
    obtain ⟨h1, h2, h3⟩ := sortedFrom_cons.mp h
    simp only [read]
    rw [if_neg (by omega)]
    exact ih h3 (by omega)

theorem read_put_same {c : Chip} {a : Nat} (v : Byte) (h : c.sortedFrom (a + 1) = true) : (put a v c).read a = v := by
  unfold put
  split
  · rw [read_below h (by omega)]; exact (‹v = 0›).symm
  · simp [read]

theorem read_put_other {c : Chip} {a x : Nat} (v : Byte) (hne : x ≠ a) : (put a v c).read x = c.read x := by
  unfold put
  split
  · rfl
  · simp [read, hne.symm]

theorem read_write_same_from {c : Chip} {a lo : Nat} (v : Byte) (h : c.sortedFrom lo = true) : (c.write a v).read a = v := by
  induction c generalizing lo with
  | nil => exact read_put_same v rfl
  | cons e rest ih =>
    obtain ⟨b, w⟩ := e
    obtain ⟨h1, h2, h3⟩ := sortedFrom_cons.mp h
    simp only [write]
    split
    · exact read_put_same v (sortedFrom_cons.mpr ⟨by omega, h2, h3⟩)
    · split
      · subst_vars; exact read_put_same v h3
      · simp only [read]; rw [if_neg (by omega)]; exact ih h3

/-- A read after a write of the same register gives the value written. -/
theorem read_write_same {c : Chip} (a : Nat) (v : Byte) (h : c.wf = true) : (c.write a v).read a = v :=
  read_write_same_from v h

/-- A write leaves every other register alone. -/
theorem read_write_other {c : Chip} {a x : Nat} (v : Byte) (hne : x ≠ a) : (c.write a v).read x = c.read x := by
  induction c with
  | nil => exact read_put_other v hne
  | cons e rest ih =>
    obtain ⟨b, w⟩ := e
    simp only [write]
    split
    · exact read_put_other v hne
    · split
      · subst_vars; rw [read_put_other v hne]; simp [read, hne.symm]
      · simp only [read]; rw [ih]

/-- Registers below the first written one are left alone. -/
theorem read_writeFrom_below {c : Chip} {a x : Nat} (ps : List Byte) (hlt : x < a) : (c.writeFrom a ps).read x = c.read x := by
  induction ps generalizing a c with
  | nil => rfl
  | cons p ps ih => rw [writeFrom, ih (by omega), read_write_other p (by omega)]

/-- What is written from an address on is read from it on. -/
theorem readFrom_writeFrom {c : Chip} (a : Nat) (ps : List Byte) (h : c.wf = true) :
    (c.writeFrom a ps).readFrom a ps.length = ps := by
  induction ps generalizing a c with
  | nil => rfl
  | cons p ps ih =>
    rw [List.length_cons, readFrom, writeFrom, read_writeFrom_below ps (by omega), read_write_same a p h,
      ih (a + 1) (write_wf a p h)]

@[simp] theorem readFrom_length (c : Chip) (a n : Nat) : (c.readFrom a n).length = n := by
  induction n generalizing a with
  | zero => rfl
  | succ n ih => simp [readFrom, ih]

end Sys2Proof.Machine.Chip
end

