-- ==== Sys2Proof/Laws/State.lean ====
section
/-! SUPPORT. One lemma per field per update of State: what each operation of Machine/Ops.lean sets and what it leaves. -/

namespace Sys2Proof.Machine.State

variable (s : State)

/-! ### record -/

@[simp] theorem record_cfg (e : Event) : (s.record e).cfg = s.cfg := rfl
@[simp] theorem record_busy (e : Event) : (s.record e).busy = s.busy := rfl
@[simp] theorem record_cmd (e : Event) : (s.record e).cmd = s.cmd := rfl
@[simp] theorem record_status (e : Event) : (s.record e).status = s.status := rfl
@[simp] theorem record_result (e : Event) : (s.record e).result = s.result := rfl
@[simp] theorem record_initState (e : Event) : (s.record e).initState = s.initState := rfl
@[simp] theorem record_savedMode (e : Event) : (s.record e).savedMode = s.savedMode := rfl
@[simp] theorem record_lockHeld (e : Event) : (s.record e).lockHeld = s.lockHeld := rfl
@[simp] theorem record_seq (e : Event) : (s.record e).seq = s.seq := rfl
@[simp] theorem record_history (e : Event) : (s.record e).history = s.history ++ [e] := rfl
@[simp] theorem record_otherHolds (e : Event) : (s.record e).otherHolds = s.otherHolds := rfl
@[simp] theorem record_env (e : Event) : (s.record e).env = s.env := rfl
@[simp] theorem record_hostQueue (e : Event) : (s.record e).hostQueue = s.hostQueue := rfl

/-! ### goto -/

@[simp] theorem goto_cfg (p : Seq) : (s.goto p).cfg = s.cfg := rfl
@[simp] theorem goto_busy (p : Seq) : (s.goto p).busy = s.busy := rfl
@[simp] theorem goto_cmd (p : Seq) : (s.goto p).cmd = s.cmd := rfl
@[simp] theorem goto_status (p : Seq) : (s.goto p).status = s.status := rfl
@[simp] theorem goto_result (p : Seq) : (s.goto p).result = s.result := rfl
@[simp] theorem goto_initState (p : Seq) : (s.goto p).initState = s.initState := rfl
@[simp] theorem goto_savedMode (p : Seq) : (s.goto p).savedMode = s.savedMode := rfl
@[simp] theorem goto_lockHeld (p : Seq) : (s.goto p).lockHeld = s.lockHeld := rfl
@[simp] theorem goto_seq (p : Seq) : (s.goto p).seq = p := rfl
@[simp] theorem goto_history (p : Seq) : (s.goto p).history = s.history := rfl
@[simp] theorem goto_otherHolds (p : Seq) : (s.goto p).otherHolds = s.otherHolds := rfl
@[simp] theorem goto_env (p : Seq) : (s.goto p).env = s.env := rfl
@[simp] theorem goto_hostQueue (p : Seq) : (s.goto p).hostQueue = s.hostQueue := rfl

/-! ### setInit -/

@[simp] theorem setInit_cfg (x : InitState) : (s.setInit x).cfg = s.cfg := rfl
@[simp] theorem setInit_busy (x : InitState) : (s.setInit x).busy = s.busy := rfl
@[simp] theorem setInit_cmd (x : InitState) : (s.setInit x).cmd = s.cmd := rfl
@[simp] theorem setInit_status (x : InitState) : (s.setInit x).status = s.status := rfl
@[simp] theorem setInit_result (x : InitState) : (s.setInit x).result = s.result := rfl
@[simp] theorem setInit_initState (x : InitState) : (s.setInit x).initState = x := rfl
@[simp] theorem setInit_savedMode (x : InitState) : (s.setInit x).savedMode = s.savedMode := rfl
@[simp] theorem setInit_lockHeld (x : InitState) : (s.setInit x).lockHeld = s.lockHeld := rfl
@[simp] theorem setInit_seq (x : InitState) : (s.setInit x).seq = s.seq := rfl
@[simp] theorem setInit_history (x : InitState) : (s.setInit x).history = s.history := rfl
@[simp] theorem setInit_otherHolds (x : InitState) : (s.setInit x).otherHolds = s.otherHolds := rfl
@[simp] theorem setInit_env (x : InitState) : (s.setInit x).env = s.env := rfl
@[simp] theorem setInit_hostQueue (x : InitState) : (s.setInit x).hostQueue = s.hostQueue := rfl

/-! ### saveMode -/

@[simp] theorem saveMode_cfg (m : Byte) : (s.saveMode m).cfg = s.cfg := rfl
@[simp] theorem saveMode_busy (m : Byte) : (s.saveMode m).busy = s.busy := rfl
@[simp] theorem saveMode_cmd (m : Byte) : (s.saveMode m).cmd = s.cmd := rfl
@[simp] theorem saveMode_status (m : Byte) : (s.saveMode m).status = s.status := rfl
@[simp] theorem saveMode_result (m : Byte) : (s.saveMode m).result = s.result := rfl
@[simp] theorem saveMode_initState (m : Byte) : (s.saveMode m).initState = s.initState := rfl
@[simp] theorem saveMode_savedMode (m : Byte) : (s.saveMode m).savedMode = m := rfl
@[simp] theorem saveMode_lockHeld (m : Byte) : (s.saveMode m).lockHeld = s.lockHeld := rfl
@[simp] theorem saveMode_seq (m : Byte) : (s.saveMode m).seq = s.seq := rfl
@[simp] theorem saveMode_history (m : Byte) : (s.saveMode m).history = s.history := rfl
@[simp] theorem saveMode_otherHolds (m : Byte) : (s.saveMode m).otherHolds = s.otherHolds := rfl
@[simp] theorem saveMode_env (m : Byte) : (s.saveMode m).env = s.env := rfl
@[simp] theorem saveMode_hostQueue (m : Byte) : (s.saveMode m).hostQueue = s.hostQueue := rfl

/-! ### setEnv -/

@[simp] theorem setEnv_cfg (l : List EnvMove) : (s.setEnv l).cfg = s.cfg := rfl
@[simp] theorem setEnv_busy (l : List EnvMove) : (s.setEnv l).busy = s.busy := rfl
@[simp] theorem setEnv_cmd (l : List EnvMove) : (s.setEnv l).cmd = s.cmd := rfl
@[simp] theorem setEnv_status (l : List EnvMove) : (s.setEnv l).status = s.status := rfl
@[simp] theorem setEnv_result (l : List EnvMove) : (s.setEnv l).result = s.result := rfl
@[simp] theorem setEnv_initState (l : List EnvMove) : (s.setEnv l).initState = s.initState := rfl
@[simp] theorem setEnv_savedMode (l : List EnvMove) : (s.setEnv l).savedMode = s.savedMode := rfl
@[simp] theorem setEnv_lockHeld (l : List EnvMove) : (s.setEnv l).lockHeld = s.lockHeld := rfl
@[simp] theorem setEnv_seq (l : List EnvMove) : (s.setEnv l).seq = s.seq := rfl
@[simp] theorem setEnv_history (l : List EnvMove) : (s.setEnv l).history = s.history := rfl
@[simp] theorem setEnv_otherHolds (l : List EnvMove) : (s.setEnv l).otherHolds = s.otherHolds := rfl
@[simp] theorem setEnv_env (l : List EnvMove) : (s.setEnv l).env = l := rfl
@[simp] theorem setEnv_hostQueue (l : List EnvMove) : (s.setEnv l).hostQueue = s.hostQueue := rfl

/-! ### setHost -/

@[simp] theorem setHost_cfg (l : List HostMove) : (s.setHost l).cfg = s.cfg := rfl
@[simp] theorem setHost_busy (l : List HostMove) : (s.setHost l).busy = s.busy := rfl
@[simp] theorem setHost_cmd (l : List HostMove) : (s.setHost l).cmd = s.cmd := rfl
@[simp] theorem setHost_status (l : List HostMove) : (s.setHost l).status = s.status := rfl
@[simp] theorem setHost_result (l : List HostMove) : (s.setHost l).result = s.result := rfl
@[simp] theorem setHost_initState (l : List HostMove) : (s.setHost l).initState = s.initState := rfl
@[simp] theorem setHost_savedMode (l : List HostMove) : (s.setHost l).savedMode = s.savedMode := rfl
@[simp] theorem setHost_lockHeld (l : List HostMove) : (s.setHost l).lockHeld = s.lockHeld := rfl
@[simp] theorem setHost_seq (l : List HostMove) : (s.setHost l).seq = s.seq := rfl
@[simp] theorem setHost_history (l : List HostMove) : (s.setHost l).history = s.history := rfl
@[simp] theorem setHost_otherHolds (l : List HostMove) : (s.setHost l).otherHolds = s.otherHolds := rfl
@[simp] theorem setHost_env (l : List HostMove) : (s.setHost l).env = s.env := rfl
@[simp] theorem setHost_hostQueue (l : List HostMove) : (s.setHost l).hostQueue = l := rfl

/-! ### takeLock -/

@[simp] theorem takeLock_cfg : s.takeLock.cfg = s.cfg := rfl
@[simp] theorem takeLock_busy : s.takeLock.busy = s.busy := rfl
@[simp] theorem takeLock_cmd : s.takeLock.cmd = s.cmd := rfl
@[simp] theorem takeLock_status : s.takeLock.status = s.status := rfl
@[simp] theorem takeLock_result : s.takeLock.result = s.result := rfl
@[simp] theorem takeLock_initState : s.takeLock.initState = s.initState := rfl
@[simp] theorem takeLock_savedMode : s.takeLock.savedMode = s.savedMode := rfl
@[simp] theorem takeLock_lockHeld : s.takeLock.lockHeld = true := rfl
@[simp] theorem takeLock_seq : s.takeLock.seq = s.seq := rfl
@[simp] theorem takeLock_history : s.takeLock.history = s.history ++ [.lock] := rfl
@[simp] theorem takeLock_otherHolds : s.takeLock.otherHolds = s.otherHolds := rfl
@[simp] theorem takeLock_env : s.takeLock.env = s.env := rfl
@[simp] theorem takeLock_hostQueue : s.takeLock.hostQueue = s.hostQueue := rfl

/-! ### unlock -/

@[simp] theorem unlock_cfg : s.unlock.cfg = s.cfg := rfl
@[simp] theorem unlock_busy : s.unlock.busy = s.busy := rfl
@[simp] theorem unlock_cmd : s.unlock.cmd = s.cmd := rfl
@[simp] theorem unlock_status : s.unlock.status = s.status := rfl
@[simp] theorem unlock_result : s.unlock.result = s.result := rfl
@[simp] theorem unlock_initState : s.unlock.initState = s.initState := rfl
@[simp] theorem unlock_savedMode : s.unlock.savedMode = s.savedMode := rfl
@[simp] theorem unlock_lockHeld : s.unlock.lockHeld = false := rfl
@[simp] theorem unlock_seq : s.unlock.seq = s.seq := rfl
@[simp] theorem unlock_history : s.unlock.history = s.history ++ [.unlock] := rfl
@[simp] theorem unlock_otherHolds : s.unlock.otherHolds = s.otherHolds := rfl
@[simp] theorem unlock_env : s.unlock.env = s.env := rfl
@[simp] theorem unlock_hostQueue : s.unlock.hostQueue = s.hostQueue := rfl

/-! ### finish -/

@[simp] theorem finish_cfg (st res : Word) : (s.finish st res).cfg = s.cfg := rfl
@[simp] theorem finish_busy (st res : Word) : (s.finish st res).busy = false := rfl
@[simp] theorem finish_cmd (st res : Word) : (s.finish st res).cmd = s.cmd := rfl
@[simp] theorem finish_status (st res : Word) : (s.finish st res).status = st := rfl
@[simp] theorem finish_result (st res : Word) : (s.finish st res).result = res := rfl
@[simp] theorem finish_initState (st res : Word) : (s.finish st res).initState = s.initState := rfl
@[simp] theorem finish_savedMode (st res : Word) : (s.finish st res).savedMode = s.savedMode := rfl
@[simp] theorem finish_lockHeld (st res : Word) : (s.finish st res).lockHeld = s.lockHeld := rfl
@[simp] theorem finish_seq (st res : Word) : (s.finish st res).seq = .idle := rfl
@[simp] theorem finish_history (st res : Word) : (s.finish st res).history = s.history ++ [.complete st res] := rfl
@[simp] theorem finish_otherHolds (st res : Word) : (s.finish st res).otherHolds = s.otherHolds := rfl
@[simp] theorem finish_env (st res : Word) : (s.finish st res).env = s.env := rfl
@[simp] theorem finish_hostQueue (st res : Word) : (s.finish st res).hostQueue = s.hostQueue := rfl

/-! ### accept -/

@[simp] theorem accept_cfg (w : CmdWord) : (s.accept w).cfg = s.cfg := rfl
@[simp] theorem accept_busy (w : CmdWord) : (s.accept w).busy = true := rfl
@[simp] theorem accept_cmd (w : CmdWord) : (s.accept w).cmd = w := rfl
@[simp] theorem accept_status (w : CmdWord) : (s.accept w).status = s.status := rfl
@[simp] theorem accept_result (w : CmdWord) : (s.accept w).result = s.result := rfl
@[simp] theorem accept_initState (w : CmdWord) : (s.accept w).initState = s.initState := rfl
@[simp] theorem accept_savedMode (w : CmdWord) : (s.accept w).savedMode = s.savedMode := rfl
@[simp] theorem accept_lockHeld (w : CmdWord) : (s.accept w).lockHeld = s.lockHeld := rfl
@[simp] theorem accept_seq (w : CmdWord) : (s.accept w).seq = .start := rfl
@[simp] theorem accept_history (w : CmdWord) : (s.accept w).history = s.history ++ [.accept w] := rfl
@[simp] theorem accept_otherHolds (w : CmdWord) : (s.accept w).otherHolds = s.otherHolds := rfl
@[simp] theorem accept_env (w : CmdWord) : (s.accept w).env = s.env := rfl
@[simp] theorem accept_hostQueue (w : CmdWord) : (s.accept w).hostQueue = s.hostQueue := rfl

/-! ### otherTakes -/

@[simp] theorem otherTakes_cfg : s.otherTakes.cfg = s.cfg := rfl
@[simp] theorem otherTakes_busy : s.otherTakes.busy = s.busy := rfl
@[simp] theorem otherTakes_cmd : s.otherTakes.cmd = s.cmd := rfl
@[simp] theorem otherTakes_status : s.otherTakes.status = s.status := rfl
@[simp] theorem otherTakes_result : s.otherTakes.result = s.result := rfl
@[simp] theorem otherTakes_initState : s.otherTakes.initState = s.initState := rfl
@[simp] theorem otherTakes_savedMode : s.otherTakes.savedMode = s.savedMode := rfl
@[simp] theorem otherTakes_lockHeld : s.otherTakes.lockHeld = s.lockHeld := rfl
@[simp] theorem otherTakes_seq : s.otherTakes.seq = s.seq := rfl
@[simp] theorem otherTakes_history : s.otherTakes.history = s.history := rfl
@[simp] theorem otherTakes_otherHolds : s.otherTakes.otherHolds = (s.otherHolds || !s.lockHeld) := rfl
@[simp] theorem otherTakes_env : s.otherTakes.env = s.env := rfl
@[simp] theorem otherTakes_hostQueue : s.otherTakes.hostQueue = s.hostQueue := rfl

/-! ### otherReleases -/

@[simp] theorem otherReleases_cfg : s.otherReleases.cfg = s.cfg := rfl
@[simp] theorem otherReleases_busy : s.otherReleases.busy = s.busy := rfl
@[simp] theorem otherReleases_cmd : s.otherReleases.cmd = s.cmd := rfl
@[simp] theorem otherReleases_status : s.otherReleases.status = s.status := rfl
@[simp] theorem otherReleases_result : s.otherReleases.result = s.result := rfl
@[simp] theorem otherReleases_initState : s.otherReleases.initState = s.initState := rfl
@[simp] theorem otherReleases_savedMode : s.otherReleases.savedMode = s.savedMode := rfl
@[simp] theorem otherReleases_lockHeld : s.otherReleases.lockHeld = s.lockHeld := rfl
@[simp] theorem otherReleases_seq : s.otherReleases.seq = s.seq := rfl
@[simp] theorem otherReleases_history : s.otherReleases.history = s.history := rfl
@[simp] theorem otherReleases_otherHolds : s.otherReleases.otherHolds = false := rfl
@[simp] theorem otherReleases_env : s.otherReleases.env = s.env := rfl
@[simp] theorem otherReleases_hostQueue : s.otherReleases.hostQueue = s.hostQueue := rfl

/-! ### resetBlock -/

@[simp] theorem resetBlock_cfg : s.resetBlock.cfg = s.cfg := rfl
@[simp] theorem resetBlock_busy : s.resetBlock.busy = false := rfl
@[simp] theorem resetBlock_cmd : s.resetBlock.cmd = 0 := rfl
@[simp] theorem resetBlock_status : s.resetBlock.status = 0 := rfl
@[simp] theorem resetBlock_result : s.resetBlock.result = 0 := rfl
@[simp] theorem resetBlock_initState : s.resetBlock.initState = .unprobed := rfl
@[simp] theorem resetBlock_savedMode : s.resetBlock.savedMode = 0 := rfl
@[simp] theorem resetBlock_lockHeld : s.resetBlock.lockHeld = false := rfl
@[simp] theorem resetBlock_seq : s.resetBlock.seq = .idle := rfl
@[simp] theorem resetBlock_history : s.resetBlock.history = [] := rfl
@[simp] theorem resetBlock_otherHolds : s.resetBlock.otherHolds = s.otherHolds := rfl
@[simp] theorem resetBlock_env : s.resetBlock.env = s.env := rfl
@[simp] theorem resetBlock_hostQueue : s.resetBlock.hostQueue = s.hostQueue := rfl

/-! ### complete -/

@[simp] theorem complete_cfg (res : Word) : (s.complete res).cfg = s.cfg := rfl
@[simp] theorem complete_busy (res : Word) : (s.complete res).busy = false := rfl
@[simp] theorem complete_cmd (res : Word) : (s.complete res).cmd = s.cmd := rfl
@[simp] theorem complete_status (res : Word) : (s.complete res).status = okStatus s.status s.cmd := rfl
@[simp] theorem complete_result (res : Word) : (s.complete res).result = res := rfl
@[simp] theorem complete_initState (res : Word) : (s.complete res).initState = s.initState := rfl
@[simp] theorem complete_savedMode (res : Word) : (s.complete res).savedMode = s.savedMode := rfl
@[simp] theorem complete_lockHeld (res : Word) : (s.complete res).lockHeld = s.lockHeld := rfl
@[simp] theorem complete_seq (res : Word) : (s.complete res).seq = .idle := rfl
@[simp] theorem complete_history (res : Word) : (s.complete res).history = s.history ++ [.complete (okStatus s.status s.cmd) res] := rfl
@[simp] theorem complete_otherHolds (res : Word) : (s.complete res).otherHolds = s.otherHolds := rfl
@[simp] theorem complete_env (res : Word) : (s.complete res).env = s.env := rfl
@[simp] theorem complete_hostQueue (res : Word) : (s.complete res).hostQueue = s.hostQueue := rfl

/-! ### releaseLock and raise: the lock is released where it is held (R217) -/

@[simp] theorem releaseLock_cfg : s.releaseLock.cfg = s.cfg := by unfold releaseLock; split <;> rfl
@[simp] theorem releaseLock_busy : s.releaseLock.busy = s.busy := by unfold releaseLock; split <;> rfl
@[simp] theorem releaseLock_cmd : s.releaseLock.cmd = s.cmd := by unfold releaseLock; split <;> rfl
@[simp] theorem releaseLock_status : s.releaseLock.status = s.status := by unfold releaseLock; split <;> rfl
@[simp] theorem releaseLock_result : s.releaseLock.result = s.result := by unfold releaseLock; split <;> rfl
@[simp] theorem releaseLock_initState : s.releaseLock.initState = s.initState := by unfold releaseLock; split <;> rfl
@[simp] theorem releaseLock_savedMode : s.releaseLock.savedMode = s.savedMode := by unfold releaseLock; split <;> rfl
@[simp] theorem releaseLock_lockHeld : s.releaseLock.lockHeld = false := by unfold releaseLock; split <;> simp_all
@[simp] theorem releaseLock_seq : s.releaseLock.seq = s.seq := by unfold releaseLock; split <;> rfl
@[simp] theorem releaseLock_history : s.releaseLock.history = if s.lockHeld then s.history ++ [.unlock] else s.history := by unfold releaseLock; split <;> simp_all
@[simp] theorem releaseLock_otherHolds : s.releaseLock.otherHolds = s.otherHolds := by unfold releaseLock; split <;> rfl
@[simp] theorem releaseLock_env : s.releaseLock.env = s.env := by unfold releaseLock; split <;> rfl
@[simp] theorem releaseLock_hostQueue : s.releaseLock.hostQueue = s.hostQueue := by unfold releaseLock; split <;> rfl

@[simp] theorem raise_cfg (e : ErrInfo) : (s.raise e).cfg = s.cfg := by simp [raise]
@[simp] theorem raise_busy (e : ErrInfo) : (s.raise e).busy = false := by simp [raise]
@[simp] theorem raise_cmd (e : ErrInfo) : (s.raise e).cmd = s.cmd := by simp [raise]
@[simp] theorem raise_status (e : ErrInfo) : (s.raise e).status = errorStatus s.status s.cmd e := by simp [raise]
@[simp] theorem raise_result (e : ErrInfo) : (s.raise e).result = s.result := by simp [raise]
@[simp] theorem raise_initState (e : ErrInfo) : (s.raise e).initState = s.initState := by simp [raise]
@[simp] theorem raise_savedMode (e : ErrInfo) : (s.raise e).savedMode = s.savedMode := by simp [raise]
@[simp] theorem raise_lockHeld (e : ErrInfo) : (s.raise e).lockHeld = false := by simp [raise]
@[simp] theorem raise_seq (e : ErrInfo) : (s.raise e).seq = .idle := by simp [raise]
@[simp] theorem raise_history (e : ErrInfo) : (s.raise e).history = (if s.lockHeld then s.history ++ [.unlock] else s.history) ++ [.complete (errorStatus s.status s.cmd e) s.result] := by simp [raise]
@[simp] theorem raise_otherHolds (e : ErrInfo) : (s.raise e).otherHolds = s.otherHolds := by simp [raise]
@[simp] theorem raise_env (e : ErrInfo) : (s.raise e).env = s.env := by simp [raise]
@[simp] theorem raise_hostQueue (e : ErrInfo) : (s.raise e).hostQueue = s.hostQueue := by simp [raise]

/-- Two states with the same fields are equal. -/
theorem ext_fields {s t : State} (h1 : s.cfg = t.cfg) (h2 : s.busy = t.busy) (h3 : s.cmd = t.cmd) (h4 : s.status = t.status)
    (h5 : s.result = t.result) (h6 : s.initState = t.initState) (h7 : s.savedMode = t.savedMode)
    (h8 : s.lockHeld = t.lockHeld) (h9 : s.seq = t.seq) (h10 : s.history = t.history) (h11 : s.otherHolds = t.otherHolds)
    (h12 : s.env = t.env) (h13 : s.hostQueue = t.hostQueue) : s = t := by
  cases s; cases t; simp_all

end Sys2Proof.Machine.State
end

