-- ==== Sys2Proof/Laws/Words.lean ====
section
/-! SUPPORT. The STATUS word's fields, the outcome of an answer, and the effective addresses. -/

namespace Sys2Proof.Machine

section Status

variable (sticky : BitVec 1) (op : BitVec 4) (e : ErrInfo)

@[simp] theorem codeOf_statusWord : codeOf (statusWord sticky op e) = e.code.bits := by
  simp only [codeOf, statusWord]; ext i hi; interval_cases i <;> simp

@[simp] theorem stepOf_statusWord : stepOf (statusWord sticky op e) = e.step := by
  simp only [stepOf, statusWord]; ext i hi; interval_cases i <;> simp

@[simp] theorem errRegOf_statusWord : errRegOf (statusWord sticky op e) = e.errReg := by
  simp only [errRegOf, statusWord]; ext i hi; interval_cases i <;> simp

@[simp] theorem errDevOf_statusWord : errDevOf (statusWord sticky op e) = e.errDev := by
  simp only [errDevOf, statusWord]; ext i hi; interval_cases i <;> simp

@[simp] theorem lastOpOf_statusWord : lastOpOf (statusWord sticky op e) = op := by
  simp only [lastOpOf, statusWord]; ext i hi; interval_cases i <;> simp

@[simp] theorem stickyOf_statusWord : stickyOf (statusWord sticky op e) = sticky := by
  simp only [stickyOf, statusWord]; ext i hi; interval_cases i; simp

@[simp] theorem reserved23_statusWord : (statusWord sticky op e).extractLsb' 23 1 = 0 := by
  simp only [statusWord]; ext i hi; interval_cases i; simp

@[simp] theorem reserved28_statusWord : (statusWord sticky op e).extractLsb' 28 3 = 0 := by
  simp only [statusWord]; ext i hi; interval_cases i <;> simp

end Status

/-! ### The fields of a command word -/

section Fields

variable (op : BitVec 4) (reg : BitVec 2) (idx : BitVec 4) (slot : BitVec 1) (data : Word)

@[simp] theorem opOf_packCmd : opOf (packCmd op reg idx slot data) = op := by
  simp only [opOf, packCmd]; ext i hi; interval_cases i <;> simp

@[simp] theorem regOf_packCmd : regOf (packCmd op reg idx slot data) = reg := by
  simp only [regOf, packCmd]; ext i hi; interval_cases i <;> simp

@[simp] theorem idxOf_packCmd : idxOf (packCmd op reg idx slot data) = idx := by
  simp only [idxOf, packCmd]; ext i hi; interval_cases i <;> simp

@[simp] theorem slotOf_packCmd : slotOf (packCmd op reg idx slot data) = slot := by
  simp only [slotOf, packCmd]; ext i hi; interval_cases i; simp

@[simp] theorem rsvOf_packCmd : rsvOf (packCmd op reg idx slot data) = 0 := by
  simp only [rsvOf, packCmd]; ext i hi; interval_cases i <;> simp

@[simp] theorem dataOf_packCmd : dataOf (packCmd op reg idx slot data) = data := by
  simp only [dataOf, packCmd]; ext i hi; interval_cases i <;> simp

end Fields

/-- A word is its fields. -/
theorem packCmd_fields (w : CmdWord) (h : rsvOf w = 0) :
    packCmd (opOf w) (regOf w) (idxOf w) (slotOf w) (dataOf w) = w := by
  have hz : ∀ i, i < 21 → w.getLsbD (11 + i) = false := fun i hi => by
    have := congrArg (fun v => v.getLsbD i) h
    simpa [rsvOf, hi] using this
  ext i hi
  simp only [packCmd, opOf, regOf, idxOf, slotOf, dataOf]
  by_cases h1 : i < 11
  · interval_cases i <;> simp [BitVec.getLsbD_eq_getElem]
  · by_cases h2 : i < 32
    · have := hz (i - 11) (by omega)
      rw [show 11 + (i - 11) = i by omega, BitVec.getLsbD_eq_getElem hi] at this
      rw [this]
      interval_cases i <;> simp
    · simp [h2, show i - 32 < 32 by omega, show 32 + (i - 32) = i by omega, show ¬ i - 10 = 0 by omega,
        show ¬ i - 6 < 4 by omega, show ¬ i ≤ 5 by omega, show ¬ i < 4 by omega, BitVec.getLsbD_eq_getElem hi]


end Sys2Proof.Machine
end

