-- ==== Sys2Proof/Laws/Discipline.lean ====
section
/-! SUPPORT. Histories and STATUS words in the terms of the invariant: where more events lead, what the transactions of a history
are, that every STATUS a completion writes is one of R23, and what error entry and completion do in full. -/

namespace Sys2Proof.Machine

/-! ### Histories -/

theorem phaseFrom_append (p : Phase) (a b : List Event) :
    phaseFrom p (a ++ b) = (phaseFrom p a).bind (fun q => phaseFrom q b) := by
  induction a generalizing p with
  | nil => rfl
  | cons e es ih => simp only [List.cons_append, phaseFrom]; cases p.after e <;> simp [ih]

/-- From where a history stands, more events lead on. -/
theorem phaseOf_append {h : List Event} {q : Phase} (hq : phaseOf h = some q) (b : List Event) :
    phaseOf (h ++ b) = phaseFrom q b := by
  simp only [phaseOf, phaseFrom_append] at *; simp [hq]

@[simp] theorem txsOf_append (a b : List Event) : txsOf (a ++ b) = txsOf a ++ txsOf b := by
  induction a with
  | nil => rfl
  | cons e es ih => cases e <;> simp [txsOf, ih]

theorem commandFrom_append (c : Option CmdWord × List (BusRequest × Option (List Byte))) (a b : List Event) :
    commandFrom c (a ++ b) = commandFrom (commandFrom c a) b := by
  induction a generalizing c with
  | nil => rfl
  | cons e es ih => cases e <;> exact ih _

theorem commandOf_append (a b : List Event) : commandOf (a ++ b) = commandFrom (commandOf a) b := commandFrom_append _ a b

/-- A point at which the lock is held is one at which the history is in a lock hold, or in its settle wait. -/
theorem Seq.locked_iff (q : Seq) : q.locked = true ↔ q.phase = .locked ∨ q.phase = .settling := by
  cases q <;> simp [Seq.locked, Seq.phase]

/-! ### STATUS words -/

/-- Setting STICKY leaves 1, whatever it was (R217). -/
theorem sticky_set (x : BitVec 1) : x ||| 1#1 = 1#1 := by revert x; decide

/-- The STATUS of an error, field by field. -/
theorem errorStatus_eq (st : Word) (cmd : CmdWord) (e : ErrInfo) : errorStatus st cmd e = statusWord 1 (opOf cmd) e := by
  simp [errorStatus, sticky_set]

theorem statusOk_okStatus (st : Word) (cmd : CmdWord) : statusOk (okStatus st cmd) = true := by
  simp [statusOk, okStatus, Code.bits]

theorem statusOk_illegalCmd (st : Word) (cmd : CmdWord) : statusOk (errorStatus st cmd illegalCmd) = true := by
  simp [statusOk, errorStatus_eq, illegalCmd, Code.bits]

theorem statusOk_seqError (st : Word) (cmd : CmdWord) : statusOk (errorStatus st cmd seqError) = true := by
  simp [statusOk, errorStatus_eq, seqError, Code.bits]

theorem statusOk_encodeRange (st : Word) (cmd : CmdWord) (a : Byte) :
    statusOk (errorStatus st cmd (encodeRange a)) = true := by
  simp [statusOk, errorStatus_eq, encodeRange, Code.bits]

theorem statusOk_deviceNotFound (st : Word) (cmd : CmdWord) (d : DevAddr) :
    statusOk (errorStatus st cmd (deviceNotFound d)) = true := by
  simp [statusOk, errorStatus_eq, deviceNotFound, Code.bits]

/-- BUS_IO records a step for START only. -/
theorem statusOk_busIo (st : Word) (cmd : CmdWord) (k : BitVec 4) (a : Byte) (d : DevAddr) (h : k = 0 ∨ opOf cmd = 6) :
    statusOk (errorStatus st cmd (busIo k a d)) = true := by
  rcases h with h | h <;> simp [statusOk, errorStatus_eq, busIo, Code.bits, h]

/-! ### Error entry and completion, in full -/

/-- What error entry does (R217): the lock is given back where it is held, and its event recorded before Complete. -/
theorem State.raise_eq (e : ErrInfo) (s : State) :
    s.raise e = { s with
      status := statusWord 1 (opOf s.cmd) e, busy := false, lockHeld := false, seq := .idle
      history := s.history ++ ((if s.lockHeld then [.unlock] else []) ++
        [.complete (statusWord 1 (opOf s.cmd) e) s.result]) } := by
  cases h : s.lockHeld <;> apply State.ext_fields <;> simp [h, errorStatus_eq]

/-- What completion does after the last `Unlock()` (R218). -/
theorem State.unlock_complete_eq (res : Word) (s : State) :
    s.unlock.complete res = { s with
      status := okStatus s.status s.cmd, result := res, busy := false, lockHeld := false, seq := .idle
      history := s.history ++ [.unlock, .complete (okStatus s.status s.cmd) res] } := by
  apply State.ext_fields <;> simp

/-! ### Payload bytes -/

/-- Low byte first, as numbers (R9). -/
theorem le16_eq (w : Half) : le16 w = [BitVec.ofNat 8 w.toNat, BitVec.ofNat 8 (w.toNat / 256)] := by
  simp only [le16, List.cons.injEq, and_true]
  constructor <;> apply BitVec.eq_of_toNat_eq <;> simp [Nat.shiftRight_eq_div_pow]

/-- The word of its two bytes, as a number. -/
theorem half_toNat (lo hi : Byte) : (half lo hi).toNat = hi.toNat * 256 + lo.toNat := by
  have h1 := lo.isLt
  have h2 := hi.isLt
  simp only [half, BitVec.toNat_or, BitVec.toNat_shiftLeft, BitVec.toNat_setWidth]
  rw [Nat.mod_eq_of_lt (a := hi.toNat) (by omega), Nat.mod_eq_of_lt (a := lo.toNat) (by omega), Nat.shiftLeft_eq,
    Nat.mod_eq_of_lt (by omega), Nat.mul_comm, ← Nat.two_pow_add_eq_or_of_lt (i := 8) (b := lo.toNat) (by omega),
    Nat.mul_comm]

/-- The pair of ON and OFF, as a number (R76). -/
theorem pairWord_eq (on off : Half) : pairWord on off = BitVec.ofNat 32 (off.toNat * 65536 + on.toNat) := by
  apply BitVec.eq_of_toNat_eq
  have h1 := on.isLt
  have h2 := off.isLt
  simp only [pairWord, BitVec.toNat_or, BitVec.toNat_shiftLeft, BitVec.toNat_setWidth, BitVec.toNat_ofNat]
  rw [Nat.mod_eq_of_lt (a := off.toNat) (by omega), Nat.mod_eq_of_lt (a := on.toNat) (by omega), Nat.shiftLeft_eq,
    Nat.mod_eq_of_lt (by omega), Nat.mod_eq_of_lt (by omega), Nat.mul_comm,
    ← Nat.two_pow_add_eq_or_of_lt (i := 16) (b := on.toNat) (by omega), Nat.mul_comm]

end Sys2Proof.Machine
end

