-- ==== Sys2Proof/Laws/PerInstr.lean ====
section
/-! SUPPORT. The per-command laws, one lemma per constructor of Instr. Family EncodedRow: the word of a command matches the row
of the opcode map that describes the command (30_encoding.md R72, spec/opcode_table.json). -/

namespace Sys2Proof.Laws.EncodedRow

/-- The encoded command matches its row. -/
def Statement (i : Instr) : Prop := i.row.fits (encode i) = true

/-- A packed word fits a row where both of its halves do. -/
theorem fits_of_halves (r : OpcodeRow) {op : BitVec 4} {reg : BitVec 2} {idx : BitVec 4} {slot : BitVec 1} {data : Word}
    (hlow : (packCmd op reg idx slot 0).setWidth 32 &&& r.mask.setWidth 32 = r.pattern.setWidth 32)
    (hhigh : data &&& r.mask.extractLsb' 32 32 = r.pattern.extractLsb' 32 32) :
    r.fits (packCmd op reg idx slot data) = true := by
  simp only [OpcodeRow.fits, decide_eq_true_eq]
  apply BitVec.eq_of_getLsbD_eq
  intro i hi
  by_cases h : i < 32
  · have := congrArg (fun v => v.getLsbD i) hlow
    simp only [BitVec.getLsbD_and, BitVec.getLsbD_setWidth, h, decide_true, Bool.true_and] at this
    rw [← this]
    simp [packCmd, h]
  · have := congrArg (fun v => v.getLsbD (i - 32)) hhigh
    simp only [BitVec.getLsbD_and, BitVec.getLsbD_extractLsb', show i - 32 < 32 by omega, show 32 + (i - 32) = i by omega,
      decide_true, Bool.true_and] at this
    rw [← this]
    simp [packCmd, h, hi, BitVec.getLsbD_of_ge slot (i - 10) (by omega), BitVec.getLsbD_of_ge idx (i - 6) (by omega),
      BitVec.getLsbD_of_ge reg (i - 4) (by omega), BitVec.getLsbD_of_ge op i (by omega)]

theorem convert (slot : Nat) (v : Word) : Statement (.convert slot v) :=
  fits_of_halves rowConvert (by generalize BitVec.ofNat 1 slot = x; revert x; decide) (by simp [rowConvert])

theorem send (slot : Nat) (v : Word) : Statement (.send slot v) :=
  fits_of_halves rowSend (by generalize BitVec.ofNat 1 slot = x; revert x; decide) (by simp [rowSend])

theorem writeMode (b : Byte) : Statement (.writeMode b) :=
  fits_of_halves rowWriteMode (by decide) (by revert b; decide)

theorem writePrescale (b : Byte) : Statement (.writePrescale b) :=
  fits_of_halves rowWritePrescale (by decide) (by revert b; decide)

theorem writePwm (n : Nat) (on off : Half) : Statement (.writePwm n on off) :=
  fits_of_halves rowWritePwm (by generalize BitVec.ofNat 4 n = x; revert x; decide) (by simp [rowWritePwm])

theorem readMode : Statement .readMode := fits_of_halves rowReadMode (by decide) (by decide)

theorem readPrescale : Statement .readPrescale := fits_of_halves rowReadPrescale (by decide) (by decide)

theorem readPwm (n : Nat) : Statement (.readPwm n) :=
  fits_of_halves rowReadPwm (by generalize BitVec.ofNat 4 n = x; revert x; decide) (by decide)

theorem probe : Statement .probe := fits_of_halves rowProbe (by decide) (by decide)

theorem start : Statement .start := fits_of_halves rowStart (by decide) (by decide)

end Sys2Proof.Laws.EncodedRow
end

