-- ==== Sys2Proof/Laws/Run.lean ====
section
/-! SUPPORT. What a run of a command's pseudocode, and a step, can do: one inversion lemma for each, and one induction. -/

namespace Sys2Proof.Machine

namespace Pseudocode

variable (p : Pseudocode)

@[simp] theorem carryOn_nil (s : State) : p.carryOn [] s = s.setEnv [] := rfl

@[simp] theorem carryOn_delay (rest : List EnvMove) (s : State) : p.carryOn (.delay :: rest) s = s.setEnv rest := rfl

/-- One move of an agent, and on from there while the command runs. -/
theorem carryOn_cons {m : EnvMove} (h : m ≠ .delay) (rest : List EnvMove) (s : State) :
    p.carryOn (m :: rest) s =
      if (p.deliver m s).busy then p.carryOn rest (p.deliver m s) else (p.deliver m s).setEnv rest := by
  cases m <;> first | rfl | exact absurd rfl h

/-- What one move can do: nothing, a step of OTHER, or one internal step of BLOCK at the point the move ends its wait at. -/
theorem deliver_cases (m : EnvMove) (s : State) :
    p.deliver m s = s ∨ (m = .otherLock ∧ p.deliver m s = s.otherTakes) ∨
    (m = .otherUnlock ∧ p.deliver m s = s.otherReleases) ∨
    (m = .grant ∧ s.seq = .lock ∧ s.otherHolds = false ∧ p.deliver m s = p.granted s.takeLock) ∨
    (∃ a r, m = .answer a ∧ p.request s = some r ∧
      p.deliver m s = p.answered (r.outcome a) (s.record (.tx r (r.outcome a)))) ∨
    (m = .settle ∧ s.seq = .settle ∧ p.deliver m s = p.settled (s.record .settleEnd)) := by
  cases m with
  | otherLock => exact .inr (.inl ⟨rfl, rfl⟩)
  | otherUnlock => exact .inr (.inr (.inl ⟨rfl, rfl⟩))
  | grant =>
    by_cases h : s.canGrant = true
    · refine .inr (.inr (.inr (.inl ⟨rfl, ?_, ?_, by simp [deliver, h]⟩))) <;> simp_all [State.canGrant]
    · exact .inl (by simp [deliver, h])
  | answer a =>
    cases h : p.request s with
    | none => exact .inl (by simp [deliver, onAnswer, h])
    | some r => exact .inr (.inr (.inr (.inr (.inl ⟨a, r, rfl, rfl, by simp [deliver, onAnswer, h]⟩))))
  | settle =>
    by_cases h : s.seq = .settle
    · exact .inr (.inr (.inr (.inr (.inr ⟨rfl, h, by simp [deliver, h]⟩))))
    · exact .inl (by simp [deliver, h])
  | delay => exact .inl rfl

/-- What holds of a running command, is kept by every move, and does not speak of the moves to come, holds at the end. -/
theorem carryOn_keeps {P : State → Prop} (hmove : ∀ m s, s.busy = true → P s → P (p.deliver m s))
    (henv : ∀ l s, P s → P (s.setEnv l)) (l : List EnvMove) (s : State) (hb : s.busy = true) (h : P s) :
    P (p.carryOn l s) := by
  induction l generalizing s with
  | nil => exact henv _ _ h
  | cons m rest ih =>
    by_cases hm : m = .delay
    · subst hm; exact henv _ _ h
    · rw [carryOn_cons p hm]
      split
      · exact ih _ ‹_› (hmove m s hb h)
      · exact henv _ _ (hmove m s hb h)

theorem run_atStart {s : State} (h : s.seq = .start) :
    p.run s = if (p.first s).busy then p.carryOn s.env (p.first s) else p.first s := by
  simp [run, h]

theorem run_waiting {s : State} (h : s.seq ≠ .start) : p.run s = p.carryOn s.env s := by
  simp [run, h]

/-- The same for a run: the first internal step, then the moves. -/
theorem run_keeps {P : State → Prop} (s : State) (hb : s.busy = true) (hfirst : s.seq = .start → P (p.first s))
    (hwait : s.seq ≠ .start → P s) (hmove : ∀ m s, s.busy = true → P s → P (p.deliver m s))
    (henv : ∀ l s, P s → P (s.setEnv l)) : P (p.run s) := by
  by_cases h : s.seq = .start
  · rw [run_atStart p h]
    split
    · exact carryOn_keeps p hmove henv _ _ ‹_› (hfirst h)
    · exact hfirst h
  · rw [run_waiting p h]
    exact carryOn_keeps p hmove henv _ _ hb (hwait h)

/-- The same where it is kept by every move, also one that comes to a block at rest. -/
theorem carryOn_keeps_always {P : State → Prop} (hmove : ∀ m s, P s → P (p.deliver m s))
    (henv : ∀ l s, P s → P (s.setEnv l)) (l : List EnvMove) (s : State) (h : P s) : P (p.carryOn l s) := by
  induction l generalizing s with
  | nil => exact henv _ _ h
  | cons m rest ih =>
    by_cases hm : m = .delay
    · subst hm; exact henv _ _ h
    · rw [carryOn_cons p hm]
      split
      · exact ih _ (hmove m s h)
      · exact henv _ _ (hmove m s h)

theorem run_keeps_always {P : State → Prop} (s : State) (hfirst : P s → P (p.first s)) (h : P s)
    (hmove : ∀ m s, P s → P (p.deliver m s)) (henv : ∀ l s, P s → P (s.setEnv l)) : P (p.run s) := by
  by_cases hs : s.seq = .start
  · rw [run_atStart p hs]
    split
    · exact carryOn_keeps_always p hmove henv _ _ (hfirst h)
    · exact hfirst h
  · rw [run_waiting p hs]
    exact carryOn_keeps_always p hmove henv _ _ h

/-- The moves to come at the end of a run are a rest of those at its beginning. -/
theorem carryOn_env (l : List EnvMove) (s : State) : ∃ used, l = used ++ (p.carryOn l s).env := by
  induction l generalizing s with
  | nil => exact ⟨[], by simp⟩
  | cons m rest ih =>
    by_cases hm : m = .delay
    · subst hm; exact ⟨[.delay], by simp⟩
    · rw [carryOn_cons p hm]
      split
      · obtain ⟨u, hu⟩ := ih (p.deliver m s)
        exact ⟨m :: u, by rw [List.cons_append, ← hu]⟩
      · exact ⟨[m], by simp⟩

end Pseudocode

/-- Every meaning is a run of the command's pseudocode. -/
theorem exec_eq_run (i : Instr) (s : State) : exec i s = .next ((pseudocode s.cfg i).run s) := by
  cases i <;> rfl

/-! The six commands that are `RegWrite` or `RegRead`, and SEND, as one transaction. -/

section OneTransaction

variable (cfg : Cfg)

theorem pseudocode_writeMode (b : Byte) : pseudocode cfg (.writeMode b) =
    .oneAccess (State.goto .lock) modeAddr (fun dev => memWrite dev modeAddr [b]) (fun _ => b.setWidth 32) := rfl

theorem pseudocode_writePrescale (b : Byte) : pseudocode cfg (.writePrescale b) =
    .oneAccess (State.goto .lock) prescaleAddr (fun dev => memWrite dev prescaleAddr [b]) (fun _ => b.setWidth 32) := rfl

theorem pseudocode_writePwm (n : Nat) (on off : Half) : pseudocode cfg (.writePwm n on off) =
    .oneAccess (State.goto .lock) (pwmAddr n) (fun dev => memWrite dev (pwmAddr n) (pwmPayload on off))
      (fun _ => pairWord on off) := rfl

theorem pseudocode_readMode : pseudocode cfg .readMode =
    .oneAccess (State.goto .lock) modeAddr (fun dev => memRead dev modeAddr 1) byteValue := rfl

theorem pseudocode_readPrescale : pseudocode cfg .readPrescale =
    .oneAccess (State.goto .lock) prescaleAddr (fun dev => memRead dev prescaleAddr 1) byteValue := rfl

theorem pseudocode_readPwm (n : Nat) : pseudocode cfg (.readPwm n) =
    .oneAccess (State.goto .lock) (pwmAddr n) (fun dev => memRead dev (pwmAddr n) 4) pwmValue := rfl

theorem pseudocode_send (k : Nat) (v : Word) : pseudocode cfg (.send k v) =
    .oneAccess
      (fun s => if fitsOff (shiftedCycle (cfg.slot k) v) then s.goto .lock else s.raise (encodeRange (slotAddr k)))
      (slotAddr k) (fun dev => memWrite dev (slotAddr k) (pwmPayload 0 (offWord (shiftedCycle (cfg.slot k) v))))
      (fun _ => (offWord (shiftedCycle (cfg.slot k) v)).setWidth 32) := rfl

end OneTransaction

/-- What a step can do. -/
theorem step_cases {s t : State} (h : step s = .next t) :
    (∃ i, s.busy = true ∧ decode s.cmd = .ok i ∧ t = (pseudocode s.cfg i).run s) ∨
    (∃ e, s.busy = true ∧ decode s.cmd = .error e ∧ t = s.completeIllegal) ∨
    (s.busy = false ∧ t = s.idleStep) := by
  unfold step at h
  split at h
  · split at h
    · rename_i i hi
      rw [exec_eq_run] at h
      cases h
      exact .inl ⟨i, ‹_›, hi, rfl⟩
    · rename_i e he
      cases h
      exact .inr (.inl ⟨e, ‹_›, he, rfl⟩)
  · cases h
    exact .inr (.inr ⟨by simpa using ‹¬ s.busy = true›, rfl⟩)

namespace State

/-- What the environment can do while no command runs. -/
theorem envWhileIdle_cases (s : State) :
    (s.env = [] ∧ s.envWhileIdle = s) ∨
    ∃ m rest, s.env = m :: rest ∧ ((m = .otherLock ∧ s.envWhileIdle = (s.setEnv rest).otherTakes) ∨
      (m = .otherUnlock ∧ s.envWhileIdle = (s.setEnv rest).otherReleases) ∨
      (m ≠ .otherLock ∧ m ≠ .otherUnlock ∧ s.envWhileIdle = s.setEnv rest)) := by
  cases h : s.env with
  | nil => exact .inl ⟨rfl, by simp [envWhileIdle, h]⟩
  | cons m rest => exact .inr ⟨m, rest, rfl, by cases m <;> simp [envWhileIdle, h]⟩

/-- What a step can do while no command runs. -/
theorem idleStep_cases (s : State) :
    (∃ w rest, s.hostQueue = .present w :: rest ∧ s.idleStep = (s.setHost rest).accept w) ∨
    (∃ rest, s.hostQueue = .reset :: rest ∧ s.idleStep = (s.setHost rest).resetBlock) ∨
    (∃ rest, s.hostQueue = .hold :: rest ∧ s.idleStep = (s.setHost rest).envWhileIdle) ∨
    (s.hostQueue = [] ∧ s.idleStep = s.envWhileIdle) := by
  cases h : s.hostQueue with
  | nil => exact .inr (.inr (.inr ⟨rfl, by simp [idleStep, h]⟩))
  | cons m rest =>
    cases m with
    | present w => exact .inl ⟨w, rest, rfl, by simp [idleStep, h]⟩
    | reset => exact .inr (.inl ⟨rest, rfl, by simp [idleStep, h]⟩)
    | hold => exact .inr (.inr (.inl ⟨rest, rfl, by simp [idleStep, h]⟩))

end State

/-! ### A command with one transaction -/

namespace Pseudocode

variable {first : State → State} {reg : Byte} {req : DevAddr → BusRequest} {result : List Byte → Word}

/-- Served and answered OK, it completes with the value of the bytes read, after one transaction under one lock hold. -/
theorem oneAccess_served_ok {s : State} {a : BusAnswer} {got : List Byte} {rest : List EnvMove} (hseq : s.seq = .start)
    (hbusy : s.busy = true) (hfirst : first s = s.goto .lock) (hfree : s.otherHolds = false)
    (henv : s.env = .grant :: .answer a :: rest) (hgot : (req s.cfg.dev).outcome a = some got) :
    (oneAccess first reg req result).run s =
      ((((((s.goto .lock).takeLock).goto .access).record (.tx (req s.cfg.dev) (some got))).unlock).complete
        (result got)).setEnv rest := by
  rw [run_atStart _ hseq]
  simp [oneAccess, hfirst, hbusy, henv, carryOn_cons, deliver, onAnswer, State.canGrant, hfree, hgot]

/-- Served and answered FAIL, it ends with BUS_IO and the register's address. -/
theorem oneAccess_served_fail {s : State} {a : BusAnswer} {rest : List EnvMove} (hseq : s.seq = .start)
    (hbusy : s.busy = true) (hfirst : first s = s.goto .lock) (hfree : s.otherHolds = false)
    (henv : s.env = .grant :: .answer a :: rest) (hgot : (req s.cfg.dev).outcome a = none) :
    (oneAccess first reg req result).run s =
      (((((s.goto .lock).takeLock).goto .access).record (.tx (req s.cfg.dev) none)).raise
        (busIo 0 reg s.cfg.dev)).setEnv rest := by
  rw [run_atStart _ hseq]
  simp [oneAccess, hfirst, hbusy, henv, carryOn_cons, deliver, onAnswer, State.canGrant, hfree, hgot]

end Pseudocode

end Sys2Proof.Machine
end

