-- ==== Sys2Proof/Tests/Slice0.lean ====
section
/-! SUPPORT. Tests: the ill-formed terms; words written out from the spec's encoding; one step of every command on the
configuration TV of 95_test_vectors.md §0, with the values of that file's vectors; and, for every statement with hypotheses, a
witness that meets them. -/

namespace Sys2Proof.Tests

open Sys2Proof Sys2Proof.Machine Sys2Proof.Claims

/-! ### Helpers -/

/-- Configuration TV (95 §0). -/
def tvParams : Params := ⟨0x40, 25000000, 50, ⟨750, 2250, 50⟩, ⟨750, 2250, 50⟩⟩

/-- The block of TV. -/
def tv : Cfg := ⟨tvParams, by decide⟩

/-- A block at rest in an initialization state, with moves to come. -/
def rest (x : InitState) (env : List EnvMove) : State := { State.resetWith tv with initState := x, env := env }

/-- The same, the command just accepted. -/
def started (x : InitState) (i : Instr) (env : List EnvMove) : State := (rest x env).accept (encode i)

/-- The state after one step. -/
def after (s : State) : State :=
  match step s with
  | .next t => t
  | .fault _ => s
  | .refused _ => s

/-- What a vector shows of a completed command: STATUS, RESULT, the lock and bus events, INIT_STATE. -/
def shown (s : State) : Word × Word × List Event × InitState :=
  ((after s).status, (after s).result, ((after s).history.drop 1).dropLast, (after s).initState)

/-- BUS grants, then answers OK with these bytes. -/
def good (bytes : List Byte) : List EnvMove := [.grant, .answer (.ok bytes)]

/-- BUS grants, then answers FAIL. -/
def bad : List EnvMove := [.grant, .answer .fail]

/-- `L`, a write, `U`. -/
def writeEvents (bytes : List Byte) : List Event := [.lock, .tx ⟨.write, 0x40, bytes, 0⟩ (some []), .unlock]

/-- `L`, a register read, `U`. -/
def readEvents (a : Byte) (bytes : List Byte) : List Event :=
  [.lock, .tx ⟨.writeRead, 0x40, [a], bytes.length⟩ (some bytes), .unlock]

/-! ### WellFormed refuses -/

theorem test_wf_convert_slot : (Instr.convert 2 0).wellFormed = false := by decide
theorem test_wf_send_slot : (Instr.send 2 0x8000).wellFormed = false := by decide
theorem test_wf_writePwm_channel : (Instr.writePwm 16 0 384).wellFormed = false := by decide
theorem test_wf_readPwm_channel : (Instr.readPwm 16).wellFormed = false := by decide
theorem test_wf_accepts_bounds :
    (Instr.convert 1 0).wellFormed = true ∧ (Instr.writePwm 15 0 0).wellFormed = true := by decide

/-! ### Decode: words written out from R71 and R72 (DATA, RSV, SLOT, IDX, REG, OP) and from R87 -/

theorem test_decode_convert_fields :
    decode (0xFFFF0000#32 ++ 0#21 ++ 1#1 ++ 0#4 ++ 0#2 ++ 1#4) = .ok (.convert 1 0xFFFF0000#32) := by decide
theorem test_decode_send_fields :
    decode (0x0000C000#32 ++ 0#21 ++ 0#1 ++ 0#4 ++ 0#2 ++ 2#4) = .ok (.send 0 0x0000C000#32) := by decide
theorem test_decode_writeMode_fields :
    decode (0x000000A1#32 ++ 0#21 ++ 0#1 ++ 0#4 ++ 0#2 ++ 3#4) = .ok (.writeMode 0xA1#8) := by decide
theorem test_decode_writePrescale_fields :
    decode (0x0000007A#32 ++ 0#21 ++ 0#1 ++ 0#4 ++ 1#2 ++ 3#4) = .ok (.writePrescale 0x7A#8) := by decide
theorem test_decode_writePwm_fields :
    decode (0x0200#16 ++ 0x0010#16 ++ 0#21 ++ 0#1 ++ 5#4 ++ 2#2 ++ 3#4) = .ok (.writePwm 5 0x0010#16 0x0200#16) := by
  decide
theorem test_decode_readMode_fields : decode (0#32 ++ 0#21 ++ 0#1 ++ 0#4 ++ 0#2 ++ 4#4) = .ok .readMode := by decide
theorem test_decode_readPrescale_fields :
    decode (0#32 ++ 0#21 ++ 0#1 ++ 0#4 ++ 1#2 ++ 4#4) = .ok .readPrescale := by decide
theorem test_decode_readPwm_fields :
    decode (0#32 ++ 0#21 ++ 0#1 ++ 15#4 ++ 2#2 ++ 4#4) = .ok (.readPwm 15) := by decide
theorem test_decode_probe_fields : decode (0#32 ++ 0#21 ++ 0#1 ++ 0#4 ++ 0#2 ++ 5#4) = .ok .probe := by decide
theorem test_decode_start_fields : decode (0#32 ++ 0#21 ++ 0#1 ++ 0#4 ++ 0#2 ++ 6#4) = .ok .start := by decide

/-- R87, the table's words as the encoder writes them. -/
theorem test_encode_worked :
    encode (.convert 0 0xC000) = 0x0000C00000000001#64 ∧ encode (.send 1 0x8000) = 0x0000800000000402#64 ∧
    encode (.writeMode 0xA1) = 0x000000A100000003#64 ∧ encode (.writePrescale 122) = 0x0000007A00000013#64 ∧
    encode (.writePwm 2 0 384) = 0x01800000000000A3#64 ∧ encode .readMode = 0x0000000000000004#64 ∧
    encode .readPrescale = 0x0000000000000014#64 ∧ encode (.readPwm 15) = 0x00000000000003E4#64 ∧
    encode .probe = 0x0000000000000005#64 ∧ encode .start = 0x0000000000000006#64 := by decide

/-- L2-ILLEGAL IL-1 to IL-5: reserved operations and REG = 3. -/
theorem test_illegal_op_and_reg :
    decode 0x0000000000000000#64 = .error (.reservedOp 0) ∧ decode 0x0000000000000007#64 = .error (.reservedOp 7) ∧
    decode 0x000000000000000F#64 = .error (.reservedOp 15) ∧ decode 0x0000000000000034#64 = .error .reservedReg ∧
    decode 0x0000000000000033#64 = .error .reservedReg := by decide

/-- L2-ILLEGAL IL-6 to IL-16: fields that must be 0. -/
theorem test_illegal_fields :
    decode 0x0000000000000801#64 = .error (.nonzero .rsv) ∧ decode 0x0000000000000011#64 = .error (.nonzero .reg) ∧
    decode 0x0000000000000042#64 = .error (.nonzero .idx) ∧ decode 0x0000010000000003#64 = .error (.nonzero .dataHigh) ∧
    decode 0x0000000000000053#64 = .error (.nonzero .idx) ∧ decode 0x0000000000000403#64 = .error (.nonzero .slot) ∧
    decode 0x0000000100000004#64 = .error (.nonzero .data) ∧ decode 0x0000000100000064#64 = .error (.nonzero .data) ∧
    decode 0x0000000100000005#64 = .error (.nonzero .data) ∧ decode 0x0000000000000406#64 = .error (.nonzero .slot) ∧
    decode 0x0000C00000000006#64 = .error (.nonzero .data) := by decide

/-! ### Derived constants -/

/-- L1-1, and `PRESCALE_VAL` of TV. -/
theorem test_constants_tv :
    (tv.slot 0).minTicks = 2457 ∧ (tv.slot 0).maxTicks = 7372 ∧ (tv.slot 1).scale = 4915 ∧ tv.prescaleByte = 0x7A := by
  decide

/-- Worked by hand from R105: the next V above 1.0 (65537) on `{2457, 4915}` gives `floor(65537 * 4915 / 65536) = 4915`, so
MAX_TICKS, not more (log entry 8). -/
theorem test_cycle_just_above_one : cycleOf (tv.slot 0) 0x00010001#32 = 7372 := by decide

/-! ### One step of each command (95_test_vectors.md L1, L2, L3) -/

/-- IL-2, with RESULT unchanged. -/
theorem test_step_illegal :
    shown ((rest .unprobed []).accept 0x0000000000000007#64) = (0x87000001#32, 0, [], .unprobed) := by decide

/-- R105's example. -/
theorem test_convert_three_quarters :
    shown (started .unprobed (.convert 0 0x0000C000) []) = (0x01000000#32, 0x000017FF#32, [], .unprobed) := by decide

/-- P6 row 4: a negative cycle, not clamped. -/
theorem test_convert_minus_one :
    shown (started .unprobed (.convert 0 0xFFFF0000) []) = (0x01000000#32, 0xFFFFF666#32, [], .unprobed) := by decide

/-- L1-7. -/
theorem test_send_three_quarters :
    shown (started .running (.send 0 0x0000C000) (good [])) =
      (0x02000000#32, 0x00000180#32, writeEvents [0x06, 0x00, 0x00, 0x80, 0x01], .running) := by decide

/-- P6 row 3: ENCODE_RANGE before the lock; the moves to come stay. -/
theorem test_send_out_of_range :
    shown (started .running (.send 0 0xFFFF0000) (good [])) = (0x82000603#32, 0, [], .running) ∧
    (after (started .running (.send 0 0xFFFF0000) (good []))).env = good [] := by decide

/-- P5 row 3: a SEND in NOT_FOUND, answered FAIL, on slot 1. -/
theorem test_send_fail :
    (after (started .notFound (.send 1 0x00008000) bad)).status = 0x82400A04#32 := by decide

/-- R141's example. -/
theorem test_writeMode :
    shown (started .unprobed (.writeMode 0xA1) (good [])) =
      (0x03000000#32, 0x000000A1#32, writeEvents [0x00, 0xA1], .unprobed) := by decide

/-- R142's example. -/
theorem test_writePrescale :
    shown (started .unprobed (.writePrescale 122) (good [])) =
      (0x03000000#32, 0x0000007A#32, writeEvents [0xFE, 0x7A], .unprobed) := by decide

/-- WF-1. -/
theorem test_writePrescale_fail :
    (after (started .unprobed (.writePrescale 122) bad)).status = 0x8340FE04#32 := by decide

/-- R144's example. -/
theorem test_writePwm :
    shown (started .unprobed (.writePwm 2 0 384) (good [])) =
      (0x03000000#32, 0x01800000#32, writeEvents [0x0E, 0x00, 0x00, 0x80, 0x01], .unprobed) := by decide

/-- P3 row 6: ON and OFF both nonzero. -/
theorem test_writePwm_on_off :
    shown (started .unprobed (.writePwm 5 0x0010 0x0200) (good [])) =
      (0x03000000#32, 0x02000010#32, writeEvents [0x1A, 0x10, 0x00, 0x00, 0x02], .unprobed) := by decide

/-- P3 row 1. -/
theorem test_readMode :
    shown (started .unprobed .readMode (good [0xA1])) =
      (0x04000000#32, 0x000000A1#32, readEvents 0x00 [0xA1], .unprobed) := by decide

/-- R-2. -/
theorem test_readPrescale :
    shown (started .unprobed .readPrescale (good [0x7A])) =
      (0x04000000#32, 0x0000007A#32, readEvents 0xFE [0x7A], .unprobed) := by decide

/-- R-4. -/
theorem test_readPwm :
    shown (started .unprobed (.readPwm 15) (good [0x00, 0x10, 0xFF, 0xFF])) =
      (0x04000000#32, 0xFFFF1000#32, readEvents 0x42 [0x00, 0x10, 0xFF, 0xFF], .unprobed) := by decide

/-- RF-1. -/
theorem test_readPwm_fail : (after (started .unprobed (.readPwm 3) bad)).status = 0x84401204#32 := by decide

/-- PB-2: the fallback read answers, its byte discarded. -/
theorem test_probe_fallback :
    shown (started .unprobed .probe [.grant, .answer .fail, .answer (.ok [0x5A])]) =
      (0x05000000#32, 1, [.lock, .tx ⟨.write, 0x40, [], 0⟩ none, .tx ⟨.read, 0x40, [], 1⟩ (some [0x5A]), .unlock],
        .present) := by decide

/-- PB-6: both attempts fail in RUNNING. -/
theorem test_probe_not_found :
    shown (started .running .probe [.grant, .answer .fail, .answer .fail]) =
      (0x85400005#32, 0, [.lock, .tx ⟨.write, 0x40, [], 0⟩ none, .tx ⟨.read, 0x40, [], 1⟩ none, .unlock], .notFound) := by
  decide

/-- ST-6: auto-increment already set in M. -/
theorem test_start_good :
    shown (started .present .start (.grant :: movesBefore 0x21 [] .seven ++ [.answer (.ok [])])) =
      (0x06000000#32, 0x000000A1#32,
        [.lock, .tx ⟨.writeRead, 0x40, [0x00], 1⟩ (some [0x21]), .tx ⟨.write, 0x40, [0x00, 0x00], 0⟩ (some []),
         .tx ⟨.write, 0x40, [0x00, 0x31], 0⟩ (some []), .tx ⟨.write, 0x40, [0xFE, 0x7A], 0⟩ (some []),
         .tx ⟨.write, 0x40, [0x00, 0x21], 0⟩ (some []), .settleStart, .settleEnd,
         .tx ⟨.write, 0x40, [0x00, 0xA1], 0⟩ (some []), .unlock], .running) := by decide

/-- SF-4: FAIL at step 4 leaves the chip asleep. -/
theorem test_start_fail_at_four :
    shown (started .present .start (.grant :: movesBefore 0x01 [] .four ++ [.answer .fail])) =
      (0x8640FE44#32, 0,
        [.lock, .tx ⟨.writeRead, 0x40, [0x00], 1⟩ (some [0x01]), .tx ⟨.write, 0x40, [0x00, 0x00], 0⟩ (some []),
         .tx ⟨.write, 0x40, [0x00, 0x11], 0⟩ (some []), .tx ⟨.write, 0x40, [0xFE, 0x7A], 0⟩ none, .unlock],
        .startFailed) := by decide

/-- SG-1: START in UNPROBED. -/
theorem test_start_unprobed : shown (started .unprobed .start []) = (0x86000002#32, 0, [], .unprobed) := by decide

/-- R226: with no answer to come the block waits at its transaction, BUSY and holding the lock. -/
theorem test_wait_for_answer :
    (after (started .unprobed .readMode [.grant])).busy = true ∧
    (after (started .unprobed .readMode [.grant])).seq = .access ∧
    (after (started .unprobed .readMode [.grant])).lockHeld = true := by decide

/-- R53: no grant while OTHER holds the lock; its release lets the next grant through. -/
theorem test_lock_excludes_other :
    (after (started .unprobed .readMode [.otherLock, .grant, .answer (.ok [1]), .delay])).seq = .lock ∧
    (after (started .unprobed .readMode [.otherLock, .grant, .otherUnlock, .grant, .otherLock, .answer (.ok [7])])).result
      = 7 := by decide

/-- R83 and R240: what the host's moves do. -/
theorem test_host_moves :
    (after { rest .running [] with hostQueue := [.present 5, .reset] }).cmd = 5 ∧
    (after { rest .running [] with hostQueue := [.reset, .present 5] }).initState = .unprobed ∧
    (after { rest .running [] with hostQueue := [.reset, .present 5] }).hostQueue = [.present 5] := by decide

/-! ### The host's side (L2-HOST, L3) -/

theorem test_host_words :
    (assembleLine "LEFT 30".toList).map AsmLine.words = some [0x0000AAAB00000002#64] ∧
    (assembleLine "BACKWARD 1".toList).map AsmLine.words = some [0xFFFFEF5C00000402#64] ∧
    (assembleLine "TURN LEFT, 91, 0.4".toList).map AsmLine.words = some [0x0000B3F800000402#64] ∧
    (assembleLine "CONVERT 0, 0.1".toList) = none := by decide

/-- L1-3, L1-4: LEFT 0, RIGHT 90 and NEUTRAL are one word. -/
theorem test_steering_symmetry :
    (assembleLine "LEFT 0".toList).map AsmLine.words = some [0x0000800000000002#64] ∧
    (assembleLine "RIGHT 90".toList).map AsmLine.words = some [0x0000800000000002#64] ∧
    (assembleLine "NEUTRAL".toList).map AsmLine.words = some [0x0000800000000002#64] := by decide

/-- P4: a TURN with an invalid angle sets the pedal and stops there. -/
theorem test_turn_invalid_angle :
    ((rest .running (good [])).runFacade (.turn .left ⟨91, 1⟩ ⟨4, 10⟩)).2 = .invalidRange ∧
    ((rest .running (good [])).runFacade (.turn .left ⟨91, 1⟩ ⟨4, 10⟩)).1.result = 0x00000171#32 := by decide

/-- P5 rows 1 and 2: INIT issues no START after a failed PROBE. -/
theorem test_init_no_device :
    ((rest .unprobed [.grant, .answer .fail, .answer .fail]).runInit).2 = .commandFailed ∧
    ((rest .unprobed [.grant, .answer .fail, .answer .fail]).runInit).1.status = 0x85400005#32 := by decide

/-- A hexadecimal value of fewer than 8 digits, and one too large (log entry 7). -/
theorem test_hex_value_digits :
    (assembleLine "SEND 0, 0xC000".toList).map AsmLine.words = some [0x0000C00000000002#64] ∧
    assembleLine "SEND 0, 0x100000000".toList = none := by decide

/-- A host call begun while the block is busy makes no move (log entry 17). -/
theorem test_issue_while_busy :
    (started .running .readMode []).issue .probe = started .running .readMode [] ∧
    ((started .running .readMode []).runFacade .stop).2 = .waiting := ⟨rfl, by decide⟩

/-! ### Witnesses: for every statement with hypotheses, a state and operands that meet them -/

/-- A just accepted command. -/
theorem started_accepted (x : InitState) (i : Instr) (env : List EnvMove) (h : i.wellFormed = true) :
    (started x i env).Accepted i := ⟨h, rfl, rfl, rfl, rfl⟩

/-- What is served to it. -/
theorem started_served (x : InitState) (i : Instr) (moves more : List EnvMove) :
    (started x i (.grant :: moves ++ more)).Served moves more := ⟨rfl, rfl⟩

/-- It meets the invariant. -/
theorem started_inv (x : InitState) (i : Instr) (env : List EnvMove) : (started x i env).Inv :=
  ⟨by simp [started, rest], rfl, by simp [started, rest, State.resetWith], .inr (.inl rfl), rfl,
    by show statusOk 0 = true; decide⟩

/-- A step that answers is not a reset where the block is busy. -/
theorem busy_not_reset {s : State} (h : s.busy = true) : ¬ resetNext s := fun r => absurd (h.symm.trans r.1) (by decide)

theorem witness_DecodeInvertsEncode :
    (Instr.convert 1 0xFFFFFFFF).wellFormed = true ∧ (Instr.writePwm 15 0xFFFF 0).wellFormed = true ∧
    (Instr.readPwm 0).wellFormed = true := by decide

theorem witness_EncodeInvertsDecode : decode 0xFFFFFFFF00000401#64 = .ok (.convert 1 0xFFFFFFFF#32) := by decide

theorem witness_LegalWordsMatchExactlyOneRow :
    decode 0xFFFFFFFF000003E3#64 = .ok (.writePwm 15 0xFFFF#16 0xFFFF#16) := by decide

theorem witness_StepRunsTheLatchedCommand :
    (started .notFound (.readPwm 15) []).busy = true ∧
    decode (started .notFound (.readPwm 15) []).cmd = .ok (.readPwm 15) := by decide

theorem witness_FetchedWordRunsNext :
    decodeTableWord 64 0x00000000000003E4 = some (.readPwm 15) ∧ decodeTableWord 8 0x06 = some .start := by decide

theorem witness_AcceptanceLatchesOneCommand :
    ({ rest .running [] with hostQueue := [.present 0xFFFFFFFFFFFFFFFF#64, .reset] } : State).busy = false ∧
    (started .running .start []).busy = true ∧ ∃ t, step (started .running .start []) = .next t :=
  ⟨rfl, rfl, _, rfl⟩

theorem witness_RunningCommandIsLatched :
    (started .running .readMode (good [1])).busy = true ∧ ∃ t, step (started .running .readMode (good [1])) = .next t :=
  ⟨rfl, _, rfl⟩

theorem witness_IllegalWordEndsAtOnce :
    ((rest .running []).accept 0#64).busy = true ∧ ((rest .running []).accept 0#64).seq = .start ∧
    ((rest .running []).accept 0#64).lockHeld = false ∧
    decode ((rest .running []).accept 0#64).cmd = .error (.reservedOp 0) := by decide

theorem witness_ResetRestoresEveryRegister :
    ({ rest .notFound [.otherLock] with status := 0x85400005, result := 7, hostQueue := [.reset] } : State).busy = false ∧
    ({ rest .notFound [.otherLock] with status := 0x85400005, result := 7, hostQueue := [.reset] } : State).hostQueue
      = .reset :: [] := by decide

theorem witness_BlockWaitsWithoutMoves :
    ((rest .running []).busy = false ∧ (rest .running []).hostQueue = [] ∧ (rest .running []).env = []) ∧
    ((after (started .running .readMode [.grant])).busy = true ∧
      decode (after (started .running .readMode [.grant])).cmd = .ok .readMode ∧
      (after (started .running .readMode [.grant])).seq ≠ .start ∧
      (after (started .running .readMode [.grant])).env = []) := by decide

/-- Also past the start: the state a step leaves meets it, here START waiting at its settle wait. -/
theorem witness_StepKeepsInvariant :
    (started .present .start (.grant :: movesBefore 1 [] .five ++ [.answer (.ok [])])).Inv ∧
    ∃ t, step (started .present .start (.grant :: movesBefore 1 [] .five ++ [.answer (.ok [])])) = .next t ∧
      t.seq = .settle :=
  ⟨started_inv _ _ _, _, rfl, by decide⟩

theorem witness_ConvertCompletesWithCycle :
    (started .unprobed (.convert 0 0x80000000) []).Accepted (.convert 0 0x80000000) ∧
    (started .notFound (.convert 1 0x7FFFFFFF) []).Accepted (.convert 1 0x7FFFFFFF) :=
  ⟨started_accepted _ _ _ rfl, started_accepted _ _ _ rfl⟩

theorem witness_CycleRoundsTowardMinusInfinity :
    (tv.slot 0).minTicks = 2457 ∧ (tv.slot 0).scale = 4915 := by decide

theorem witness_CycleFitsThirtyTwoBits :
    (tv.slot 0).valid = true ∧ (0 : Int) ≤ (0x00010000#32).toInt ∧ (0x00010000#32).toInt ≤ 65536 := by decide

theorem witness_CycleAtTheEndsOfTheRange : (tv.slot 1).valid = true := by decide

theorem witness_CycleIsMonotone :
    (0xFFFFFFFF#32).toInt ≤ (0x00000000#32).toInt ∧ (⟨1, 2, 1⟩ : SlotParams).scale = 0 := by decide

theorem witness_DatapathComputesCycle : (tv.slot 0).valid = true := by decide

/-- One value for each clause; the clauses meet at no value they answer differently. -/
theorem witness_CycleIsNotClamped :
    (tv.slot 0).valid = true ∧ (0xFFFFFFFF#32).toInt < 0 ∧ 0 < (tv.slot 0).scale ∧ 65536 ≤ (0x00010000#32).toInt ∧
    65536 ≤ ((0x0001000E#32).toInt - 65536) * ((tv.slot 0).scale : Int) := by decide

theorem witness_ConverterConstantsAreBounded :
    750 ≤ 2250 ∧ (tv.slot 0).minUs < (tv.slot 0).maxUs ∧ (tv.slot 0).valid = true ∧
    ¬((⟨750, 20001, 50⟩ : SlotParams).minTicks ≤ (⟨750, 20001, 50⟩ : SlotParams).maxTicks ∧
      (⟨750, 20001, 50⟩ : SlotParams).maxTicks ≤ 65535) := by decide

theorem witness_PrescaleRoundsToNearest :
    1 ≤ tvParams.pwmFreqHz ∧ ({ tvParams with clockHz := 716800 } : Params).pwmFreqHz = 50 ∧
    255 < ({ tvParams with clockHz := 52326400 } : Params).prescaleVal := by decide
/-- Both ends of the range, the slot that sends 4096 for every value, and an accepted SEND with each end. -/
theorem witness_SendInRangeIsNeverRefused :
    (tv.slot 0).valid = true ∧ 0 ≤ (0x00010000#32).toInt ∧ (0x00010000#32).toInt ≤ 65536 ∧
    (⟨1000000, 1000001, 1⟩ : SlotParams).valid = true ∧ shiftedCycle ⟨1000000, 1000001, 1⟩ 0#32 = 4096 ∧
    ((started .notFound (.send 1 0x00010000) (good [])).Accepted (.send 1 0x00010000) ∧
      ∃ t, exec (.send 1 0x00010000) (started .notFound (.send 1 0x00010000) (good [])) = .next t ∧ codeOf t.status = 0) ∧
    ((started .running (.send 0 0) bad).Accepted (.send 0 0) ∧
      ∃ t, exec (.send 0 0) (started .running (.send 0 0) bad) = .next t ∧ codeOf t.status = 4) :=
  ⟨by decide, by decide, by decide, by decide, by decide, ⟨started_accepted _ _ _ rfl, _, rfl, by decide⟩,
   started_accepted _ _ _ rfl, _, rfl, by decide⟩

/-- Both sides of the range, at values a slot of TV can reach, and `SEND` accepted with each. -/
theorem witness_SendRefusesWhatDoesNotFit :
    cycleOf (tv.slot 0) 0xFFFF0000#32 ≤ -2 ∧ 1048575 ≤ cycleOf (tv.slot 1) 0x7FFFFFFF#32 ∧ (tv.slot 0).valid = true ∧
    (started .running (.send 0 0xFFFF0000) []).Accepted (.send 0 0xFFFF0000) ∧
    (started .running (.send 1 0x7FFFFFFF) []).Accepted (.send 1 0x7FFFFFFF) :=
  ⟨by decide, by decide, by decide, started_accepted _ _ _ rfl, started_accepted _ _ _ rfl⟩

/-- One value for each clause of R120. -/
theorem witness_SendWritesTheChannel :
    ((started .running (.send 0 0xFFFF0000) []).Accepted (.send 0 0xFFFF0000) ∧ shiftedCycle (tv.slot 0) 0xFFFF0000#32 < 0) ∧
    ((started .running (.send 1 0x7FFFFFFF) []).Accepted (.send 1 0x7FFFFFFF) ∧
      0xFFFF < shiftedCycle (tv.slot 1) 0x7FFFFFFF#32) ∧
    ((started .notFound (.send 1 0x00010000) (good [7])).Accepted (.send 1 0x00010000) ∧
      shiftedCycle (tv.slot 1) 0x00010000#32 = 460 ∧
      (started .notFound (.send 1 0x00010000) (good [7])).Served [.answer (.ok [7])] []) ∧
    ((started .notFound (.send 0 0) bad).Accepted (.send 0 0) ∧ shiftedCycle (tv.slot 0) 0#32 = 153 ∧
      (started .notFound (.send 0 0) bad).Served [.answer .fail] []) :=
  ⟨⟨started_accepted _ _ _ rfl, by decide⟩, ⟨started_accepted _ _ _ rfl, by decide⟩,
   ⟨started_accepted _ _ _ rfl, by decide, rfl, rfl⟩, started_accepted _ _ _ rfl, by decide, rfl, rfl⟩

theorem witness_SendKeepsNoState :
    (started .unprobed (.send 1 0x8000) (good [])).Accepted (.send 1 0x8000) ∧
    (started .notFound (.send 1 0x8000) (good [])).Accepted (.send 1 0x8000) ∧
    (∃ t es, exec (.send 1 0x8000) (started .unprobed (.send 1 0x8000) (good [])) = .next t ∧
      t.history = (started .unprobed (.send 1 0x8000) (good [])).history ++ es) ∧
    (∃ t es, exec (.send 1 0x8000) (started .notFound (.send 1 0x8000) (good [])) = .next t ∧
      t.history = (started .notFound (.send 1 0x8000) (good [])).history ++ es) :=
  ⟨started_accepted _ _ _ rfl, started_accepted _ _ _ rfl, ⟨_, _, rfl, rfl⟩, _, _, rfl, rfl⟩

theorem witness_WriteByteRegisters :
    ((started .unprobed (.writeMode 0xFF) (good [])).Accepted (.writeMode 0xFF) ∧
      (started .unprobed (.writeMode 0xFF) (good [])).Served [.answer (.ok [])] []) ∧
    ((started .unprobed (.writeMode 0) bad).Accepted (.writeMode 0) ∧
      (started .unprobed (.writeMode 0) bad).Served [.answer .fail] []) ∧
    ((started .running (.writePrescale 0xFF) (good [])).Accepted (.writePrescale 0xFF) ∧
      (started .running (.writePrescale 0xFF) (good [])).Served [.answer (.ok [])] []) ∧
    ((started .running (.writePrescale 0) bad).Accepted (.writePrescale 0) ∧
      (started .running (.writePrescale 0) bad).Served [.answer .fail] []) :=
  ⟨⟨started_accepted _ _ _ rfl, rfl, rfl⟩, ⟨started_accepted _ _ _ rfl, rfl, rfl⟩,
   ⟨started_accepted _ _ _ rfl, rfl, rfl⟩, started_accepted _ _ _ rfl, rfl, rfl⟩

theorem witness_WritePwmSendsThePair :
    ((started .unprobed (.writePwm 15 0xFFFF 0x1234) (good [])).Accepted (.writePwm 15 0xFFFF 0x1234) ∧
      (started .unprobed (.writePwm 15 0xFFFF 0x1234) (good [])).Served [.answer (.ok [])] []) ∧
    ((started .unprobed (.writePwm 0 0 0) bad).Accepted (.writePwm 0 0 0) ∧
      (started .unprobed (.writePwm 0 0 0) bad).Served [.answer .fail] []) :=
  ⟨⟨started_accepted _ _ _ rfl, rfl, rfl⟩, started_accepted _ _ _ rfl, rfl, rfl⟩

theorem witness_ReadByteRegisters :
    ((started .unprobed .readMode (good [0xFF])).Accepted .readMode ∧
      (started .unprobed .readMode (good [0xFF])).Served [.answer (.ok [0xFF])] []) ∧
    ((started .unprobed .readMode bad).Accepted .readMode ∧
      (started .unprobed .readMode bad).Served [.answer .fail] []) ∧
    ((started .notFound .readPrescale (good [0])).Accepted .readPrescale ∧
      (started .notFound .readPrescale (good [0])).Served [.answer (.ok [0])] []) ∧
    ((started .notFound .readPrescale bad).Accepted .readPrescale ∧
      (started .notFound .readPrescale bad).Served [.answer .fail] []) :=
  ⟨⟨started_accepted _ _ _ rfl, rfl, rfl⟩, ⟨started_accepted _ _ _ rfl, rfl, rfl⟩,
   ⟨started_accepted _ _ _ rfl, rfl, rfl⟩, started_accepted _ _ _ rfl, rfl, rfl⟩

theorem witness_ReadPwmDecodesThePair :
    ((started .unprobed (.readPwm 15) (good [1, 2, 3, 0xFF])).Accepted (.readPwm 15) ∧
      (started .unprobed (.readPwm 15) (good [1, 2, 3, 0xFF])).Served [.answer (.ok [1, 2, 3, 0xFF])] []) ∧
    ((started .unprobed (.readPwm 0) bad).Accepted (.readPwm 0) ∧
      (started .unprobed (.readPwm 0) bad).Served [.answer .fail] []) :=
  ⟨⟨started_accepted _ _ _ rfl, rfl, rfl⟩, started_accepted _ _ _ rfl, rfl, rfl⟩
/-- A short and a long list, for each read. -/
theorem witness_ShortReadCountsAsFail :
    ((started .unprobed (.readPwm 15) (good [1, 2, 3])).Accepted (.readPwm 15) ∧
      (started .unprobed (.readPwm 15) (good [1, 2, 3])).Served [.answer (.ok [1, 2, 3])] [] ∧
      ([1, 2, 3] : List Byte).length ≠ 4) ∧
    ((started .unprobed .readMode (good [])).Accepted .readMode ∧
      (started .unprobed .readMode (good [])).Served [.answer (.ok [])] [] ∧ ([] : List Byte).length ≠ 1) ∧
    ((started .unprobed .readPrescale (good [1, 2])).Accepted .readPrescale ∧
      (started .unprobed .readPrescale (good [1, 2])).Served [.answer (.ok [1, 2])] [] ∧ ([1, 2] : List Byte).length ≠ 1) ∧
    ((started .present .start (good [])).Accepted .start ∧ (started .present .start (good [])).initState = .present ∧
      (started .present .start (good [])).Served [.answer (.ok [])] [] ∧ ([] : List Byte).length ≠ 1) ∧
    ((started .unprobed .probe [.grant, .answer .fail, .answer (.ok [])]).Accepted .probe ∧
      (started .unprobed .probe [.grant, .answer .fail, .answer (.ok [])]).initState ≠ .notFound ∧
      (started .unprobed .probe [.grant, .answer .fail, .answer (.ok [])]).Served [.answer .fail, .answer (.ok [])] [] ∧
      ([] : List Byte).length ≠ 1) :=
  ⟨⟨started_accepted _ _ _ rfl, ⟨rfl, rfl⟩, by decide⟩, ⟨started_accepted _ _ _ rfl, ⟨rfl, rfl⟩, by decide⟩,
   ⟨started_accepted _ _ _ rfl, ⟨rfl, rfl⟩, by decide⟩, ⟨started_accepted _ _ _ rfl, rfl, ⟨rfl, rfl⟩, by decide⟩,
   started_accepted _ _ _ rfl, by decide, ⟨rfl, rfl⟩, by decide⟩

/-- A rig: the block at rest, its chip holding something. -/
def rig : Rig := ⟨rest .notFound [.otherLock], [(0x00, 0xA1), (0x45, 1)], 0x40, [], 0⟩

theorem witness_FixtureRoundTrip :
    rig.block.busy = false ∧ rig.block.lockHeld = false ∧ rig.block.otherHolds = false ∧
    rig.fixAddr = rig.block.cfg.dev ∧ rig.failAt = [] ∧ rig.chip.wf = true ∧ 15 < 16 := by decide

theorem witness_BusCommandsAreNotGated :
    oneTransaction (.send 1 0x8000) ∧
    ∃ t, exec (.send 1 0x8000) (started .notFound (.send 1 0x8000) (good [])) = .next t :=
  ⟨trivial, _, rfl⟩

theorem witness_ProbeByItsAnswers :
    (started .notFound .probe []).Accepted .probe ∧
    ((started .unprobed .probe (good [7])).Accepted .probe ∧ InitState.unprobed ≠ .notFound ∧
      (started .unprobed .probe (good [7])).Served [.answer (.ok [7])] []) ∧
    ((started .running .probe [.grant, .answer .fail, .answer (.ok [7])]).Accepted .probe ∧
      InitState.running ≠ .notFound ∧
      (started .running .probe [.grant, .answer .fail, .answer (.ok [7])]).Served [.answer .fail, .answer (.ok [7])] []) ∧
    ((started .startFailed .probe [.grant, .answer .fail, .answer .fail]).Accepted .probe ∧
      InitState.startFailed ≠ .notFound ∧
      (started .startFailed .probe [.grant, .answer .fail, .answer .fail]).Served [.answer .fail, .answer .fail] []) :=
  ⟨started_accepted _ _ _ rfl, ⟨started_accepted _ _ _ rfl, by decide, rfl, rfl⟩,
   ⟨started_accepted _ _ _ rfl, by decide, rfl, rfl⟩, started_accepted _ _ _ rfl, by decide, rfl, rfl⟩

theorem witness_StartRunsTheBringUp :
    (started .startFailed .start (.grant :: (movesBefore 0xFF [3] .seven ++ [.answer (.ok [3])]) ++ [.delay])).Accepted .start ∧
    (started .startFailed .start (.grant :: (movesBefore 0xFF [3] .seven ++ [.answer (.ok [3])]) ++ [.delay])).Served
      (movesBefore 0xFF [3] .seven ++ [.answer (.ok [3])]) [.delay] :=
  ⟨started_accepted _ _ _ rfl, started_served _ _ _ _⟩

theorem witness_StartStopsAtTheFirstFailure :
    (started .present .start (.grant :: (movesBefore 1 [] .one ++ [.answer .fail]) ++ [])).Accepted .start ∧
    (started .present .start (.grant :: (movesBefore 1 [] .one ++ [.answer .fail]) ++ [])).Served
      (movesBefore 1 [] .one ++ [.answer .fail]) [] ∧
    (started .running .start (.grant :: (movesBefore 1 [] .seven ++ [.answer .fail]) ++ [])).Accepted .start ∧
    (started .running .start (.grant :: (movesBefore 1 [] .seven ++ [.answer .fail]) ++ [])).Served
      (movesBefore 1 [] .seven ++ [.answer .fail]) [] :=
  ⟨started_accepted _ _ _ rfl, started_served _ _ _ _, started_accepted _ _ _ rfl, started_served _ _ _ _⟩

theorem witness_SequenceErrorsAreTheTwoGates :
    (started .notFound .probe []).Accepted .probe ∧ (started .unprobed .start []).Accepted .start ∧
    (started .notFound .start []).Accepted .start ∧
    ((started .unprobed .start []).Inv ∧ (started .unprobed .start []).busy = true ∧
      ∃ t, step (started .unprobed .start []) = .next t ∧ t.busy = false ∧ codeOf t.status = 2) :=
  ⟨started_accepted _ _ _ rfl, started_accepted _ _ _ rfl, started_accepted _ _ _ rfl, started_inv _ _ _, rfl, _, rfl,
   by decide⟩

theorem witness_InitStateMovesByItsTable :
    ((started .unprobed .probe (good [])).Inv ∧ (started .unprobed .probe (good [])).busy = true ∧
      ∃ t, step (started .unprobed .probe (good [])) = .next t ∧ t.initState = .present) ∧
    ((rest .notFound [.otherLock]).busy = false ∧ ∃ t, step (rest .notFound [.otherLock]) = .next t ∧
      ¬ resetNext (rest .notFound [.otherLock])) :=
  ⟨⟨started_inv _ _ _, rfl, _, rfl, by decide⟩, rfl, _, rfl, fun h => by cases h.2⟩

theorem witness_NotFoundIsFinalUntilReset :
    (started .notFound .start []).Inv ∧ (started .notFound .start []).initState = .notFound ∧
    (∃ t, step (started .notFound .start []) = .next t) ∧ ¬ resetNext (started .notFound .start []) :=
  ⟨started_inv _ _ _, rfl, ⟨_, rfl⟩, busy_not_reset rfl⟩

/-- A START cut right before its PRESCALE write, the block holding the lock. -/
def cutAtFour (env : List EnvMove) : State :=
  (after (started .present .start (.grant :: movesBefore 0x81 [] .four))).setEnv env

theorem cutAtFour_inv (env : List EnvMove) : (cutAtFour env).Inv :=
  ⟨by simp [show (cutAtFour env).busy = true from by rfl, show (cutAtFour env).seq = .bringUp .four from by rfl],
   by rfl, by simp [show (cutAtFour env).otherHolds = false from by rfl],
   .inr (.inr ⟨.start, by show decode (encode .start) = _; decide, by rfl, by rfl⟩), by rfl, by show statusOk 0 = true; decide⟩

theorem cutAtFour_trace (env : List EnvMove) : BringUpTrace (cutAtFour env) where
  accepted := fun _ => by rfl
  before := fun _ h => by rcases h with h | h <;> cases h
  soFar := fun k _ h => by cases h; rfl
  atSettle := fun _ h => by cases h
  underSleep := fun before more r got ps w h hr _ _ => by
    have hm : Event.tx r got ∈ (cutAtFour env).history := by rw [h]; simp
    have hh : (cutAtFour env).history =
        [.accept 6, .lock, .tx ⟨.writeRead, 0x40, [0x00], 1⟩ (some [0x81]), .tx ⟨.write, 0x40, [0x00, 0x00], 0⟩ (some []),
         .tx ⟨.write, 0x40, [0x00, 0x11], 0⟩ (some [])] := by rfl
    rw [hh] at hm
    simp only [List.mem_cons, Event.tx.injEq, reduceCtorEq, List.not_mem_nil, or_false, false_or] at hm
    rcases hm with ⟨rfl, -⟩ | ⟨rfl, -⟩ | ⟨rfl, -⟩ <;> exact absurd (List.cons.inj hr).1 (by decide)

/-- START cut after its PRESCALE write; and one resumed right before it, whose next step makes it. -/
theorem witness_PrescaleIsWrittenUnderSleep :
    ((started .present .start (.grant :: movesBefore 0x81 [] .five)).Accepted .start ∧
      ∃ t, exec .start (started .present .start (.grant :: movesBefore 0x81 [] .five)) = .next t ∧
        t.history = (started .present .start (.grant :: movesBefore 0x81 [] .five)).history ++
          ([.lock, .tx ⟨.writeRead, 0x40, [0x00], 1⟩ (some [0x81]), .tx ⟨.write, 0x40, [0x00, 0x00], 0⟩ (some []),
            .tx ⟨.write, 0x40, [0x00, 0x11], 0⟩ (some [])] ++ .tx ⟨.write, 0x40, 0xFE :: [0x7A], 0⟩ (some []) :: [])) ∧
    ((cutAtFour [.answer (.ok [])]).Inv ∧ BringUpTrace (cutAtFour [.answer (.ok [])]) ∧
      ∃ t, step (cutAtFour [.answer (.ok [])]) = .next t ∧
        .tx ⟨.write, 0x40, [0xFE, 0x7A], 0⟩ (some []) ∈ t.history) :=
  ⟨⟨started_accepted _ _ _ rfl, _, rfl, by decide⟩, cutAtFour_inv _, cutAtFour_trace _, _, rfl, by decide⟩

theorem witness_BringUpKeepsTheBitsItDoesNotOwn : tv.dev = 0x40 := by decide

theorem witness_StatusIsWrittenOnlyAtCompletion :
    ((started .running .readMode [.grant]).busy = true ∧
      ∃ t, step (started .running .readMode [.grant]) = .next t ∧ t.busy = true) ∧
    ((started .running .readMode bad).busy = true ∧
      ∃ t, step (started .running .readMode bad) = .next t ∧ t.busy = false) ∧
    ((started .running .start bad).busy = true ∧
      ∃ t, step (started .running .start bad) = .next t ∧ t.busy = false ∧ codeOf t.status = 4) ∧
    ((rest .running []).busy = false ∧ (∃ t, step (rest .running []) = .next t) ∧ ¬ resetNext (rest .running [])) :=
  ⟨⟨rfl, _, rfl, by decide⟩, ⟨rfl, _, rfl, by decide⟩, ⟨rfl, _, rfl, by decide, by decide⟩, rfl, ⟨_, rfl⟩,
   fun h => by cases h.2⟩

theorem witness_ResultIsWrittenOnlyOnOk :
    (∃ t, step (started .running .readMode (good [0xA1])) = .next t ∧
      t.result ≠ (started .running .readMode (good [0xA1])).result) ∧
    ¬ resetNext (started .running .readMode (good [0xA1])) :=
  ⟨⟨_, rfl, by decide⟩, busy_not_reset rfl⟩

theorem witness_SavedModeBetweenCommandsIsUnobservable :
    (∃ t, exec .probe (started .running .probe (good [])) = .next t ∧ Instr.probe ≠ .start) ∧
    ((started .present .start [.grant, .answer (.ok [9])]).seq = .start ∧
      (∃ t, exec .start (started .present .start [.grant, .answer (.ok [9])]) = .next t) ∧
      ∃ t, exec .start { started .present .start [.grant, .answer (.ok [9])] with savedMode := 5 } = .next t) :=
  ⟨⟨_, rfl, by decide⟩, rfl, ⟨_, rfl⟩, _, rfl⟩

/-- At `Lock()`, with OTHER holding the lock and without. -/
def atLock (other : Bool) (env : List EnvMove) : State :=
  { started .running .readMode env with seq := .lock, otherHolds := other }

theorem witness_LockWaitsForTheGrant :
    ((atLock true [.grant, .answer .fail]).busy = true ∧ decode (atLock true [.grant, .answer .fail]).cmd = .ok .readMode ∧
      (atLock true [.grant, .answer .fail]).seq = .lock ∧ (atLock true [.grant, .answer .fail]).otherHolds = true ∧
      EnvMove.otherUnlock ∉ (atLock true [.grant, .answer .fail]).env ∧
      ∃ t, step (atLock true [.grant, .answer .fail]) = .next t) ∧
    ((atLock false [.grant]).busy = true ∧ decode (atLock false [.grant]).cmd = .ok .readMode ∧
      (atLock false [.grant]).seq = .lock ∧ (atLock false [.grant]).otherHolds = false ∧
      (atLock false [.grant]).env = [.grant] ∧ ∃ t, step (atLock false [.grant]) = .next t) :=
  ⟨⟨rfl, by decide, rfl, rfl, by decide, _, rfl⟩, rfl, by decide, rfl, rfl, rfl, _, rfl⟩

/-- READ MODE holding the lock, one transaction behind it. -/
theorem witness_TransactionsOnlyUnderTheLock :
    (after (started .running .readMode (good [1]))).Inv ∧
    (after (started .running .readMode (good [1]))).history =
      [.accept 4, .lock] ++ .tx ⟨.writeRead, 0x40, [0], 1⟩ (some [1]) :: [.unlock, .complete 0x04000000 1] :=
  ⟨⟨by decide, by decide, by decide, .inl (by decide), by decide, by decide⟩, by decide⟩

theorem witness_CompletionReleasesTheLock :
    (started .running .readMode bad).Inv ∧ (started .running .readMode bad).busy = true ∧
    ∃ t, step (started .running .readMode bad) = .next t ∧ t.busy = false ∧ Event.lock ∈ t.history :=
  ⟨started_inv _ _ _, rfl, _, rfl, by decide, by decide⟩

theorem witness_DelaysAreInvisible :
    (started .running .readMode ([.grant] ++ .delay :: [.answer .fail])).busy = true ∧ EnvMove.delay ∉ [EnvMove.grant] ∧
    ∃ t, exec .readMode (started .running .readMode ([.grant] ++ .delay :: [.answer .fail])) = .next t ∧ t.busy = true :=
  ⟨rfl, by decide, _, rfl, by decide⟩

theorem witness_ConfigurationStaysAndHistoryGrows :
    (∃ t, step (started .running .readMode (good [1])) = .next t) ∧ ¬ resetNext (started .running .readMode (good [1])) :=
  ⟨⟨_, rfl⟩, busy_not_reset rfl⟩

theorem witness_FrameOfBusCommands :
    oneTransaction .readMode ∧ (∃ t, exec .readMode (started .running .readMode [.grant]) = .next t ∧ t.busy = true) ∧
    (started .running .readMode [.grant]).busy = true :=
  ⟨trivial, ⟨_, rfl, by decide⟩, rfl⟩

theorem witness_FrameOfConvert :
    (started .running (.convert 1 7) []).Accepted (.convert 1 7) ∧
    ∃ t, exec (.convert 1 7) (started .running (.convert 1 7) []) = .next t :=
  ⟨started_accepted _ _ _ rfl, _, rfl⟩

theorem witness_FrameOfProbeAndStart :
    ((∃ t, exec .probe (started .running .probe [.grant]) = .next t ∧ t.busy = true) ∧
      (started .running .probe [.grant]).busy = true) ∧
    ((∃ t, exec .start (started .running .start [.grant]) = .next t ∧ t.busy = true) ∧
      (started .running .start [.grant]).busy = true) :=
  ⟨⟨⟨_, rfl, by decide⟩, rfl⟩, ⟨_, rfl, by decide⟩, rfl⟩
/-- PROBE's two transactions without an address, and a write of the last channel. -/
theorem witness_CommandsTouchOnlyTheirRegisters :
    ((started .running (.writePwm 15 1 2) (good [])).Accepted (.writePwm 15 1 2) ∧
      ∃ t es, exec (.writePwm 15 1 2) (started .running (.writePwm 15 1 2) (good [])) = .next t ∧
        t.history = (started .running (.writePwm 15 1 2) (good [])).history ++ es ∧
        txsOf es = [(⟨.write, 0x40, [0x42, 1, 0, 2, 0], 0⟩, some [])]) ∧
    ((started .running .probe [.grant, .answer .fail, .answer .fail]).Accepted .probe ∧
      ∃ t es, exec .probe (started .running .probe [.grant, .answer .fail, .answer .fail]) = .next t ∧
        t.history = (started .running .probe [.grant, .answer .fail, .answer .fail]).history ++ es ∧
        txsOf es = [(⟨.write, 0x40, [], 0⟩, none), (⟨.read, 0x40, [], 1⟩, none)]) :=
  ⟨⟨started_accepted _ _ _ rfl, _,
     [.lock, .tx ⟨.write, 0x40, [0x42, 1, 0, 2, 0], 0⟩ (some []), .unlock, .complete 0x03000000 0x00020001], rfl, by decide,
     by decide⟩,
   started_accepted _ _ _ rfl, _,
   [.lock, .tx ⟨.write, 0x40, [], 0⟩ none, .tx ⟨.read, 0x40, [], 1⟩ none, .unlock, .complete 0x85400005 0], rfl, by decide,
   by decide⟩

theorem witness_QuantizationRoundsToNearest : 1 ≤ (⟨-65, 1000⟩ : Frac).den := by decide

/-- The ends of the range, and just outside it. -/
theorem witness_SteeringCallsSendTheirAngles :
    (1 ≤ (⟨901, 10⟩ : Frac).den ∧ 90 < val ⟨901, 10⟩) ∧ (1 ≤ (⟨-1, 10⟩ : Frac).den ∧ val ⟨-1, 10⟩ < 0) ∧
    (0 ≤ val ⟨0, 1⟩ ∧ val ⟨0, 1⟩ ≤ 90) ∧ (0 ≤ val ⟨90, 1⟩ ∧ val ⟨90, 1⟩ ≤ 90) := by
  norm_num [val]

theorem witness_PedalCallsSendTheirForces :
    (1 ≤ (⟨11, 10⟩ : Frac).den ∧ 1 < val ⟨11, 10⟩) ∧ (1 ≤ (⟨-1, 10⟩ : Frac).den ∧ val ⟨-1, 10⟩ < 0) ∧
    (0 ≤ val ⟨0, 1⟩ ∧ val ⟨0, 1⟩ ≤ 1) ∧ (0 ≤ val ⟨1, 1⟩ ∧ val ⟨1, 1⟩ ≤ 1) := by
  norm_num [val]

end Sys2Proof.Tests
end

section
/-! SUPPORT. What each internal step of a command's pseudocode can do, once for all ten commands (R28), and what any number of
moves of a step keeps, whatever the state: the frame of a step, and how STATUS and RESULT are written (R24, R25). -/

namespace Sys2Proof.Machine

open Sys2Proof.Claims

/-! ### The internal steps of a command -/

/-- The errors a word can end with (R211–R215). -/
inductive RaisedBy (cfg : Cfg) : Except DecodeError Instr → ErrInfo → Prop where
  | illegalCmd (x : DecodeError) : RaisedBy cfg (.error x) illegalCmd
  | probeGate : RaisedBy cfg (.ok .probe) seqError
  | startGate : RaisedBy cfg (.ok .start) seqError
  | encodeRange (k : Nat) (v : Word) : RaisedBy cfg (.ok (.send k v)) (encodeRange (slotAddr k))
  | busIo {i : Instr} (hi : oneTransaction i) (reg : Byte) : RaisedBy cfg (.ok i) (busIo 0 reg cfg.dev)
  | bringUp (k : BringUpStep) : RaisedBy cfg (.ok .start) (busIo k.number (bringUpReg k) cfg.dev)
  | deviceNotFound : RaisedBy cfg (.ok .probe) (deviceNotFound cfg.dev)

/-- What BLOCK's first internal step can do: come to `Lock()` through an open gate, or end the command. -/
inductive FirstStep (i : Instr) (s : State) : State → Prop where
  | locks (hfits : seqFits i .lock = true) (hgate : gateOk i s.initState = true) : FirstStep i s (s.goto .lock)
  | completes (hno : seqFits i .lock = false) (res : Word) : FirstStep i s (s.complete res)
  | raises (e : ErrInfo) (he : RaisedBy s.cfg (.ok i) e) : FirstStep i s (s.raise e)

/-- What BLOCK's internal step after a transaction can do; INIT_STATE moves by R160's table where the command's gate was open. -/
inductive AnswerStep (i : Instr) (got : Option (List Byte)) (s : State) : State → Prop where
  | goes (q : Seq) (hq : q.phase = .locked) (hfits : seqFits i q = true) : AnswerStep i got s (s.goto q)
  | savesMode (bytes : List Byte) (hi : i = .start) (hseq : s.seq = .bringUp .one) (hgot : got = some bytes) :
      AnswerStep i got s ((s.saveMode (modeByte bytes)).goto (.bringUp .two))
  | waits (hi : i = .start) (hseq : s.seq = .bringUp .five) : AnswerStep i got s ((s.record .settleStart).goto .settle)
  | completes (x : InitState) (res : Word)
      (hx : gateOk i s.initState = true → x = initAfter (.ok i) Code.ok.bits s.initState) :
      AnswerStep i got s ((s.unlock.setInit x).complete res)
  | raises (x : InitState) (e : ErrInfo) (he : RaisedBy s.cfg (.ok i) e)
      (hx : gateOk i s.initState = true → x = initAfter (.ok i) e.code.bits s.initState) :
      AnswerStep i got s ((s.setInit x).raise e)

theorem instr_kinds (i : Instr) : (∃ k v, i = .convert k v) ∨ oneTransaction i ∨ i = .probe ∨ i = .start := by
  cases i <;> simp [oneTransaction]

/-- The commands with one transaction share one pseudocode; only SEND can end before its lock, by its operands alone. -/
theorem pseudocode_oneAccess {i : Instr} (hi : oneTransaction i) (cfg : Cfg) : ∃ first reg req result,
    pseudocode cfg i = .oneAccess first reg req result ∧
    (first = State.goto .lock ∨ ∃ e, (∀ c, RaisedBy c (.ok i) e) ∧ first = State.raise e) := by
  cases i with
  | convert | probe | start => exact hi.elim
  | send k v =>
    refine ⟨_, _, _, _, pseudocode_send cfg k v, ?_⟩
    by_cases h : fitsOff (shiftedCycle (cfg.slot k) v) = true
    · exact .inl (by simp only [h, ↓reduceIte])
    · exact .inr ⟨_, fun c => .encodeRange k v, by simp only [h, Bool.false_eq_true, ↓reduceIte]⟩
  | writeMode b => exact ⟨_, _, _, _, pseudocode_writeMode cfg b, .inl rfl⟩
  | writePrescale b => exact ⟨_, _, _, _, pseudocode_writePrescale cfg b, .inl rfl⟩
  | writePwm n on off => exact ⟨_, _, _, _, pseudocode_writePwm cfg n on off, .inl rfl⟩
  | readMode => exact ⟨_, _, _, _, pseudocode_readMode cfg, .inl rfl⟩
  | readPrescale => exact ⟨_, _, _, _, pseudocode_readPrescale cfg, .inl rfl⟩
  | readPwm n => exact ⟨_, _, _, _, pseudocode_readPwm cfg n, .inl rfl⟩

/-- Its points are `Lock()` and the transaction. -/
theorem oneTransaction_seqFits {i : Instr} (hi : oneTransaction i) (q : Seq) (hq : q ≠ .idle) (hq' : q ≠ .start) :
    seqFits i q = decide (q = .lock ∨ q = .access) := by
  cases i with
  | convert | probe | start => exact hi.elim
  | _ => cases q <;> simp_all [seqFits]

theorem oneTransaction_gate {i : Instr} (hi : oneTransaction i) (x : InitState) : gateOk i x = true := by
  cases i with
  | convert | probe | start => exact hi.elim
  | _ => rfl

theorem oneTransaction_initAfter {i : Instr} (hi : oneTransaction i) (c : BitVec 4) (x : InitState) :
    initAfter (.ok i) c x = x := by
  cases i with
  | convert | probe | start => exact hi.elim
  | _ => rfl

theorem first_step (cfg : Cfg) (i : Instr) (s : State) : FirstStep i s ((pseudocode cfg i).first s) := by
  obtain ⟨k, v, rfl⟩ | hi | rfl | rfl := instr_kinds i
  · exact .completes rfl _
  · obtain ⟨first, reg, req, result, hp, hfirst⟩ := pseudocode_oneAccess hi cfg
    rw [hp]
    obtain rfl | ⟨e, he, rfl⟩ := hfirst
    · exact .locks (oneTransaction_seqFits hi .lock nofun nofun) (oneTransaction_gate hi _)
    · exact .raises e (he _)
  · simp only [pseudocode, probeCode]
    split
    · exact .raises _ .probeGate
    · exact .locks rfl (by simp [gateOk, *])
  · simp only [pseudocode, startCode]
    split
    · exact .locks rfl ‹_›
    · exact .raises _ .startGate

/-- After the grant BLOCK is at its first transaction; a CONVERT is never at `Lock()`. -/
theorem granted_step (cfg : Cfg) (i : Instr) (s : State) :
    (∃ q : Seq, q.phase = .locked ∧ seqFits i q = true ∧ (pseudocode cfg i).granted s = s.goto q) ∨
    (seqFits i .lock = false ∧ (pseudocode cfg i).granted s = s) := by
  obtain ⟨k, v, rfl⟩ | hi | rfl | rfl := instr_kinds i
  · exact .inr ⟨rfl, rfl⟩
  · obtain ⟨first, reg, req, result, hp, -⟩ := pseudocode_oneAccess hi cfg
    exact .inl ⟨.access, rfl, oneTransaction_seqFits hi .access nofun nofun, by rw [hp]; rfl⟩
  · exact .inl ⟨.probeWrite, rfl, rfl, rfl⟩
  · exact .inl ⟨.bringUp .one, rfl, rfl, rfl⟩

/-- Only START has a settle wait, and goes on to step 7 from it. -/
theorem settled_step (cfg : Cfg) (i : Instr) (s : State) :
    (i = .start ∧ (pseudocode cfg i).settled s = s.goto (.bringUp .seven)) ∨
    (seqFits i .settle = false ∧ (pseudocode cfg i).settled s = s) := by
  obtain ⟨k, v, rfl⟩ | hi | rfl | rfl := instr_kinds i
  · exact .inr ⟨rfl, rfl⟩
  · obtain ⟨first, reg, req, result, hp, -⟩ := pseudocode_oneAccess hi cfg
    exact .inr ⟨oneTransaction_seqFits hi .settle nofun nofun, by rw [hp]; rfl⟩
  · exact .inr ⟨rfl, rfl⟩
  · exact .inl ⟨rfl, rfl⟩

/-- Where a transaction waits for its answer. -/
theorem request_point {cfg : Cfg} {i : Instr} {s : State} {r : BusRequest} (h : (pseudocode cfg i).request s = some r) :
    (oneTransaction i ∧ s.seq = .access) ∨ (i = .probe ∧ (s.seq = .probeWrite ∨ s.seq = .probeRead)) ∨
    (i = .start ∧ ∃ k, s.seq = .bringUp k) := by
  obtain ⟨k, v, rfl⟩ | hi | rfl | rfl := instr_kinds i
  · cases h
  · obtain ⟨first, reg, req, result, hp, -⟩ := pseudocode_oneAccess hi cfg
    simp only [hp, Pseudocode.oneAccess, Option.ite_none_right_eq_some] at h
    exact .inl ⟨hi, h.1⟩
  · simp only [pseudocode, probeCode] at h
    split at h <;> simp_all
  · simp only [pseudocode, startCode] at h
    split at h <;> simp_all

/-- A transaction is issued in a lock hold only (R55). -/
theorem request_phase {cfg : Cfg} {i : Instr} {s : State} {r : BusRequest} (h : (pseudocode cfg i).request s = some r) :
    s.seq.phase = .locked := by
  obtain ⟨-, h⟩ | ⟨-, h | h⟩ | ⟨-, k, h⟩ := request_point h <;> rw [h] <;> rfl

theorem probeFound_eq (path : Word) (s : State) : probeFound path s =
    (s.unlock.setInit (if s.initState = .unprobed then .present else s.initState)).complete path := by
  by_cases h : s.initState = .unprobed
  · simp only [probeFound, State.unlock_initState, h, ↓reduceIte]
  · simp only [probeFound, State.unlock_initState, h, ↓reduceIte]
    rfl

theorem probeAnswered_step {s : State} (h : s.seq = .probeWrite ∨ s.seq = .probeRead) (got : Option (List Byte)) :
    AnswerStep .probe got s (probeAnswered got s) := by
  have found (path : Word) : AnswerStep .probe got s (probeFound path s) :=
    probeFound_eq path s ▸ .completes _ _ fun _ => by simp [initAfter, Code.bits]
  rcases h with h | h <;> cases hg : got <;> simp only [probeAnswered, h]
  · exact .goes .probeRead rfl rfl
  · exact hg ▸ found 0
  · exact .raises _ _ .deviceNotFound fun hgate => by simp_all [initAfter, gateOk, deviceNotFound, Code.bits]
  · exact hg ▸ found 1

theorem initAfter_start {x : InitState} (hgate : startAllowed x = true) (c : BitVec 4) :
    initAfter (.ok .start) c x = if c = 0 then .running else if c = 4 then .startFailed else x := by
  cases x <;> simp_all [initAfter, startAllowed]

theorem startAnswered_step {s : State} {k : BringUpStep} (h : s.seq = .bringUp k) (got : Option (List Byte)) :
    AnswerStep .start got s (startAnswered got s) := by
  cases got with
  | none =>
    simp only [startAnswered, h]
    exact .raises _ _ (.bringUp k) fun hgate => by simp [initAfter_start hgate, busIo, Code.bits]
  | some bytes =>
    simp only [startAnswered, h]
    cases k with
    | one => exact .savesMode bytes rfl h rfl
    | two => exact .goes (.bringUp .three) rfl rfl
    | three => exact .goes (.bringUp .four) rfl rfl
    | four => exact .goes (.bringUp .five) rfl rfl
    | five => exact .waits rfl h
    | seven => exact .completes _ _ fun hgate => by simp [initAfter_start hgate, Code.bits]

/-- What BLOCK does with an answer, in any state at the point of the transaction. -/
theorem answered_step {cfg : Cfg} {i : Instr} {s u : State} {r : BusRequest} (h : (pseudocode cfg i).request s = some r)
    (hseq : u.seq = s.seq) (got : Option (List Byte)) : AnswerStep i got u ((pseudocode cfg i).answered got u) := by
  obtain ⟨hi, -⟩ | ⟨rfl, hq⟩ | ⟨rfl, k, hq⟩ := request_point h
  · obtain ⟨first, reg, req, result, hp, -⟩ := pseudocode_oneAccess hi cfg
    rw [hp]
    cases got with
    | none => exact .raises u.initState _ (.busIo hi reg) fun _ => (oneTransaction_initAfter hi _ _).symm
    | some bytes => exact .completes u.initState _ fun _ => (oneTransaction_initAfter hi _ _).symm
  · exact probeAnswered_step (hseq ▸ hq) got
  · exact startAnswered_step (hseq.trans hq) got

/-! ### The frame of a step -/

/-- What a command never changes, however far it is carried on: of the block's registers CMD, and SAVED_MODE but for START. -/
structure Kept (d : Except DecodeError Instr) (s t : State) : Prop where
  cfg       : t.cfg = s.cfg
  cmd       : t.cmd = s.cmd
  savedMode : d ≠ .ok .start → t.savedMode = s.savedMode
  hostQueue : t.hostQueue = s.hostQueue
  history   : s.history <+: t.history

namespace Kept

variable {d : Except DecodeError Instr} {s t u : State}

theorem refl (s : State) : Kept d s s := ⟨rfl, rfl, fun _ => rfl, rfl, List.prefix_rfl⟩

theorem trans (h : Kept d s t) (h' : Kept d t u) : Kept d s u :=
  ⟨h'.cfg.trans h.cfg, h'.cmd.trans h.cmd, fun hd => (h'.savedMode hd).trans (h.savedMode hd),
    h'.hostQueue.trans h.hostQueue, h.history.trans h'.history⟩

theorem setEnv (h : Kept d s t) (l : List EnvMove) : Kept d s (t.setEnv l) :=
  ⟨h.cfg, h.cmd, h.savedMode, h.hostQueue, h.history⟩

theorem goto (h : Kept d s t) (q : Seq) : Kept d s (t.goto q) := ⟨h.cfg, h.cmd, h.savedMode, h.hostQueue, h.history⟩

theorem setInit (h : Kept d s t) (x : InitState) : Kept d s (t.setInit x) :=
  ⟨h.cfg, h.cmd, h.savedMode, h.hostQueue, h.history⟩

theorem record (h : Kept d s t) (e : Event) : Kept d s (t.record e) :=
  ⟨h.cfg, h.cmd, h.savedMode, h.hostQueue, h.history.trans (List.prefix_append _ _)⟩

theorem takeLock (h : Kept d s t) : Kept d s t.takeLock :=
  ⟨h.cfg, h.cmd, h.savedMode, h.hostQueue, h.history.trans (List.prefix_append _ _)⟩

theorem unlock (h : Kept d s t) : Kept d s t.unlock :=
  ⟨h.cfg, h.cmd, h.savedMode, h.hostQueue, h.history.trans (List.prefix_append _ _)⟩

theorem complete (h : Kept d s t) (res : Word) : Kept d s (t.complete res) :=
  ⟨h.cfg, h.cmd, h.savedMode, h.hostQueue, h.history.trans (List.prefix_append _ _)⟩

theorem raise (h : Kept d s t) (e : ErrInfo) : Kept d s (t.raise e) := by
  rw [State.raise_eq]
  exact ⟨h.cfg, h.cmd, h.savedMode, h.hostQueue, h.history.trans (List.prefix_append _ _)⟩

end Kept

theorem AnswerStep.kept {i : Instr} {got : Option (List Byte)} {s t : State} (h : AnswerStep i got s t) :
    Kept (.ok i) s t := by
  have r := Kept.refl (d := .ok i) s
  cases h with
  | goes q => exact r.goto q
  | savesMode bytes hi => exact ⟨rfl, rfl, fun hd => absurd (congrArg _ hi) hd, rfl, List.prefix_rfl⟩
  | waits => exact (r.record _).goto _
  | completes x res => exact (r.unlock.setInit x).complete res
  | raises x e => exact (r.setInit x).raise e

theorem FirstStep.kept {i : Instr} {s t : State} (h : FirstStep i s t) : Kept (.ok i) s t := by
  have r := Kept.refl (d := .ok i) s
  cases h with
  | locks => exact r.goto _
  | completes _ res => exact r.complete res
  | raises e => exact r.raise e

/-- Every move keeps the frame. -/
theorem deliver_kept (cfg : Cfg) (i : Instr) (m : EnvMove) (s : State) :
    Kept (.ok i) s ((pseudocode cfg i).deliver m s) := by
  have r := Kept.refl (d := .ok i) s
  obtain h | ⟨-, h⟩ | ⟨-, h⟩ | ⟨-, -, -, h⟩ | ⟨a, req, -, hreq, h⟩ | ⟨-, -, h⟩ := (pseudocode cfg i).deliver_cases m s <;>
    rw [h]
  · exact r
  · exact ⟨rfl, rfl, fun _ => rfl, rfl, List.prefix_rfl⟩
  · exact ⟨rfl, rfl, fun _ => rfl, rfl, List.prefix_rfl⟩
  · obtain ⟨q, -, -, hg⟩ | ⟨-, hg⟩ := granted_step cfg i s.takeLock <;> rw [hg]
    · exact r.takeLock.goto q
    · exact r.takeLock
  · exact (r.record _).trans (answered_step hreq (State.record_seq s _) _).kept
  · obtain ⟨-, hs⟩ | ⟨-, hs⟩ := settled_step cfg i (s.record .settleEnd) <;> rw [hs]
    · exact (r.record _).goto _
    · exact r.record _

theorem run_kept (cfg : Cfg) (i : Instr) (s : State) : Kept (.ok i) s ((pseudocode cfg i).run s) :=
  Pseudocode.run_keeps_always _ (P := Kept (.ok i) s) s (fun _ => (first_step cfg i s).kept) (.refl s)
    (fun m u h => h.trans (deliver_kept cfg i m u)) (fun l _ h => h.setEnv l)

/-! ### How STATUS and RESULT are written -/

/-- What a run leaves of STATUS and RESULT: both, while the command waits; at its end a STATUS of R218 or of R217, and RESULT
unchanged by an error. -/
inductive Written (d : Except DecodeError Instr) (s t : State) : Prop where
  | waiting (hbusy : t.busy = true) (hstatus : t.status = s.status) (hresult : t.result = s.result)
  | completed (hbusy : t.busy = false) (hstatus : t.status = okStatus s.status s.cmd)
  | failed (e : ErrInfo) (he : RaisedBy s.cfg d e) (hbusy : t.busy = false)
      (hstatus : t.status = errorStatus s.status s.cmd e) (hresult : t.result = s.result)

namespace Written

variable {d : Except DecodeError Instr} {s t u : State}

theorem setEnv (h : Written d s t) (l : List EnvMove) : Written d s (t.setEnv l) := by
  cases h with
  | waiting hb hst hr => exact .waiting hb hst hr
  | completed hb hst => exact .completed hb hst
  | failed e he hb hst hr => exact .failed e he hb hst hr

/-- A command that still runs has written neither. -/
theorem of_busy (h : Written d s t) (hb : t.busy = true) : t.status = s.status ∧ t.result = s.result := by
  cases h with
  | waiting _ hst hr => exact ⟨hst, hr⟩
  | completed hb' => simp [hb] at hb'
  | failed _ _ hb' => simp [hb] at hb'

/-- Carried on from a state in which it still ran. -/
theorem after (hk : Kept d s u) (h : Written d s u) (hb : u.busy = true) (h' : Written d u t) : Written d s t := by
  obtain ⟨hst, hr⟩ := h.of_busy hb
  cases h' with
  | waiting hb' hst' hr' => exact .waiting hb' (hst'.trans hst) (hr'.trans hr)
  | completed hb' hst' => exact .completed hb' (by rw [hst', hst, hk.cmd])
  | failed e he hb' hst' hr' => exact .failed e (hk.cfg ▸ he) hb' (by rw [hst', hst, hk.cmd]) (hr'.trans hr)

end Written

theorem AnswerStep.written {i : Instr} {got : Option (List Byte)} {s t : State} (h : AnswerStep i got s t)
    (hb : s.busy = true) : Written (.ok i) s t := by
  cases h with
  | goes | savesMode | waits => exact .waiting hb rfl rfl
  | completes x res => exact .completed rfl rfl
  | raises x e he => exact .failed e he (by simp) (by simp) (by simp)

theorem FirstStep.written {i : Instr} {s t : State} (h : FirstStep i s t) (hb : s.busy = true) : Written (.ok i) s t := by
  cases h with
  | locks => exact .waiting hb rfl rfl
  | completes _ res => exact .completed rfl rfl
  | raises e he => exact .failed e he (by simp) (by simp) (by simp)

theorem deliver_written (cfg : Cfg) (i : Instr) (m : EnvMove) {s : State} (hb : s.busy = true) :
    Written (.ok i) s ((pseudocode cfg i).deliver m s) := by
  obtain h | ⟨-, h⟩ | ⟨-, h⟩ | ⟨-, -, -, h⟩ | ⟨a, req, -, hreq, h⟩ | ⟨-, -, h⟩ := (pseudocode cfg i).deliver_cases m s <;>
    rw [h]
  · exact .waiting hb rfl rfl
  · exact .waiting hb rfl rfl
  · exact .waiting hb rfl rfl
  · obtain ⟨q, -, -, hg⟩ | ⟨-, hg⟩ := granted_step cfg i s.takeLock <;> rw [hg] <;> exact .waiting hb rfl rfl
  · exact .after ((Kept.refl s).record _) (.waiting hb rfl rfl) hb ((answered_step hreq (State.record_seq s _) _).written hb)
  · obtain ⟨-, hs⟩ | ⟨-, hs⟩ := settled_step cfg i (s.record .settleEnd) <;> rw [hs] <;> exact .waiting hb rfl rfl

theorem run_written (cfg : Cfg) (i : Instr) {s : State} (hb : s.busy = true) :
    Written (.ok i) s ((pseudocode cfg i).run s) :=
  (Pseudocode.run_keeps _ (P := fun t => Kept (.ok i) s t ∧ Written (.ok i) s t) s hb
    (fun _ => ⟨(first_step cfg i s).kept, (first_step cfg i s).written hb⟩) (fun _ => ⟨.refl s, .waiting hb rfl rfl⟩)
    (fun m u hu ⟨hk, hw⟩ => ⟨hk.trans (deliver_kept cfg i m u), .after hk hw hu (deliver_written cfg i m hu)⟩)
    (fun l _ ⟨hk, hw⟩ => ⟨hk.setEnv l, hw.setEnv l⟩)).2

/-- A step of a running block keeps the frame, and writes STATUS and RESULT at the end of its command only. -/
theorem step_of_busy {s t : State} (hb : s.busy = true) (h : step s = .next t) :
    Kept (decode s.cmd) s t ∧ Written (decode s.cmd) s t := by
  obtain ⟨i, -, hi, rfl⟩ | ⟨e, -, he, rfl⟩ | ⟨hidle, -⟩ := step_cases h
  · rw [hi]
    exact ⟨run_kept _ i s, run_written _ i hb⟩
  · rw [he]
    exact ⟨(Kept.refl s).raise _, .failed illegalCmd (.illegalCmd e) (by simp [State.completeIllegal])
      (by simp [State.completeIllegal]) (by simp [State.completeIllegal])⟩
  · simp [hb] at hidle

/-! ### A step while no command runs -/

theorem envWhileIdle_eq (s : State) : ∃ l b, s.envWhileIdle = { s with env := l, otherHolds := b } := by
  obtain ⟨-, h⟩ | ⟨m, rest, -, ⟨-, h⟩ | ⟨-, h⟩ | ⟨-, -, h⟩⟩ := s.envWhileIdle_cases <;> exact ⟨_, _, h⟩

/-- A step of a block at rest accepts a word, resets the block, or concerns OTHER and the moves to come only. -/
theorem step_of_idle {s t : State} (hb : s.busy = false) (h : step s = .next t) :
    (∃ w rest, t = (s.setHost rest).accept w) ∨ (resetNext s ∧ ∃ rest, t = (s.setHost rest).resetBlock) ∨
    ∃ rest l b, t = { s with hostQueue := rest, env := l, otherHolds := b } := by
  obtain ⟨i, hb', -⟩ | ⟨e, hb', -⟩ | ⟨-, rfl⟩ := step_cases h
  · simp [hb] at hb'
  · simp [hb] at hb'
  · obtain ⟨w, rest, -, h⟩ | ⟨rest, hq, h⟩ | ⟨rest, -, h⟩ | ⟨-, h⟩ := s.idleStep_cases
    · exact .inl ⟨w, rest, h⟩
    · exact .inr (.inl ⟨⟨hb, by rw [hq]; rfl⟩, rest, h⟩)
    · obtain ⟨l, b, he⟩ := envWhileIdle_eq (s.setHost rest)
      exact .inr (.inr ⟨rest, l, b, h.trans he⟩)
    · obtain ⟨l, b, he⟩ := envWhileIdle_eq s
      exact .inr (.inr ⟨s.hostQueue, l, b, h.trans he⟩)

/-- What a step of a block at rest leaves, but for reset: the configuration, STATUS and RESULT, and nothing goes from the history. -/
structure IdleFrame (s t : State) : Prop where
  cfg     : t.cfg = s.cfg
  status  : t.status = s.status
  result  : t.result = s.result
  history : s.history <+: t.history

theorem idle_step_frame {s t : State} (hb : s.busy = false) (h : step s = .next t) (hreset : ¬resetNext s) :
    IdleFrame s t := by
  obtain ⟨w, rest, rfl⟩ | ⟨hr, -⟩ | ⟨rest, l, b, rfl⟩ := step_of_idle hb h
  · exact ⟨rfl, rfl, rfl, List.prefix_append _ _⟩
  · exact absurd hr hreset
  · exact ⟨rfl, rfl, rfl, List.prefix_rfl⟩

end Sys2Proof.Machine
end

section
/-! SUPPORT. The invariant, operation by operation: what moves of OTHER, the events of a lock hold, the next point of a command and
its end make of it (R22, R28, R53, R55). -/

namespace Sys2Proof.Machine

open Sys2Proof.Claims

namespace State.Inv

variable {s : State}

theorem setEnv (h : s.Inv) (l : List EnvMove) : (s.setEnv l).Inv :=
  ⟨h.busy_iff, h.lock_iff, h.exclusive, h.position, h.discipline, h.status_ok⟩

theorem otherTakes (h : s.Inv) : s.otherTakes.Inv where
  busy_iff := h.busy_iff
  lock_iff := h.lock_iff
  exclusive := by have := h.exclusive; simp_all
  position := h.position
  discipline := h.discipline
  status_ok := h.status_ok

theorem otherReleases (h : s.Inv) : s.otherReleases.Inv where
  busy_iff := h.busy_iff
  lock_iff := h.lock_iff
  exclusive := by simp
  position := h.position
  discipline := h.discipline
  status_ok := h.status_ok

/-- An event that leaves the history where SEQ stands. -/
theorem record (h : s.Inv) {e : Event} (he : s.seq.phase.after e = some s.seq.phase) : (s.record e).Inv where
  busy_iff := h.busy_iff
  lock_iff := h.lock_iff
  exclusive := h.exclusive
  position := h.position
  discipline := by rw [record_history, phaseOf_append h.discipline]; simp [phaseFrom, he]
  status_ok := h.status_ok

/-- A command goes on to a point of it, with the lock held or not as that point has it. -/
theorem goesOn (h : s.Inv) (hb : s.busy = true) {i : Instr} (hi : decode s.cmd = .ok i)
    (hgate : gateOk i s.initState = true) {q : Seq} (hfits : seqFits i q = true)
    (hfree : q.locked = true → s.otherHolds = false) {es : List Event} (hes : phaseFrom s.seq.phase es = some q.phase)
    (m : Byte) : State.Inv { s with seq := q, savedMode := m, lockHeld := q.locked, history := s.history ++ es } where
  busy_iff := by
    have hq : q ≠ .idle := by rintro rfl; simp [seqFits] at hfits
    simp [hb, hq]
  lock_iff := rfl
  exclusive := fun ⟨hl, ho⟩ => by simp [hfree hl] at ho
  position := .inr (.inr ⟨i, hi, hfits, hgate⟩)
  discipline := (phaseOf_append h.discipline es).trans hes
  status_ok := h.status_ok

/-- A command ends: the lock is not held, and Complete is the last event. -/
theorem ends (h : s.Inv) {st res : Word} (hst : statusOk st = true) {es : List Event}
    (hes : phaseFrom s.seq.phase (es ++ [.complete st res]) = some .between) (x : InitState) :
    State.Inv { s with
      status := st, result := res, initState := x, busy := false, lockHeld := false, seq := .idle
      history := s.history ++ (es ++ [.complete st res]) } where
  busy_iff := by simp
  lock_iff := rfl
  exclusive := by simp
  position := .inl rfl
  discipline := (phaseOf_append h.discipline _).trans hes
  status_ok := hst

/-- Past the start of the command in CMD, SEQ is a point of it and its gate was open. -/
theorem fits (h : s.Inv) {i : Instr} (hi : decode s.cmd = .ok i) (hidle : s.seq ≠ .idle) (hstart : s.seq ≠ .start) :
    seqFits i s.seq = true ∧ gateOk i s.initState = true := by
  obtain hq | hq | ⟨j, hj, hfits, hgate⟩ := h.position
  · exact absurd hq hidle
  · exact absurd hq hstart
  · rw [hi] at hj
    cases hj
    exact ⟨hfits, hgate⟩

theorem lockHeld_of_locked (h : s.Inv) (hp : s.seq.phase = .locked) : s.lockHeld = true :=
  h.lock_iff.trans ((Seq.locked_iff _).mpr (.inl hp))

theorem other_free (h : s.Inv) (hl : s.lockHeld = true) : s.otherHolds = false := by
  have := h.exclusive
  simp_all

end State.Inv

/-! ### STATUS after an error -/

/-- A word is legal where every field its row wants 0 is 0, and then stands for the row's command (R72). -/
theorem withZeros_eq_ok {w : CmdWord} {i j : Instr} {fs : List CmdField} :
    withZeros w i fs = .ok j ↔ i = j ∧ ∀ f ∈ fs, f.isZero w = true := by
  induction fs with
  | nil => simp [withZeros]
  | cons f fs ih => by_cases hf : f.isZero w = true <;> simp [withZeros, hf, ih]

/-- START is operation 6 (R72). -/
theorem opOf_of_decode_start {w : CmdWord} (h : decode w = .ok .start) : opOf w = 6 := by
  unfold decode at h
  split at h <;> simp [withZeros_eq_ok] at h
  exact BitVec.eq_of_toNat_eq ‹(opOf w).toNat = 6›

theorem RaisedBy.statusOk {cfg : Cfg} {w : CmdWord} {e : ErrInfo} (h : RaisedBy cfg (decode w) e) (st : Word) :
    statusOk (errorStatus st w e) = true := by
  generalize hd : decode w = d at h
  cases h with
  | illegalCmd => exact statusOk_illegalCmd st w
  | probeGate | startGate => exact statusOk_seqError st w
  | encodeRange k => exact statusOk_encodeRange st w _
  | busIo => exact statusOk_busIo st w _ _ _ (.inl rfl)
  | bringUp k => exact statusOk_busIo st w _ _ _ (.inr (opOf_of_decode_start hd))
  | deviceNotFound => exact statusOk_deviceNotFound st w _

end Sys2Proof.Machine
end

section
/-! SUPPORT. The invariant over the internal steps of a command, and over a step. -/

namespace Sys2Proof.Machine

open Sys2Proof.Claims

theorem FirstStep.inv {i : Instr} {s t : State} (h : FirstStep i s t) (hs : s.Inv) (hb : s.busy = true)
    (hi : decode s.cmd = .ok i) (hstart : s.seq = .start) : t.Inv := by
  have hl : s.lockHeld = false := by rw [hs.lock_iff, hstart]; rfl
  have hphase (st res : Word) : phaseFrom s.seq.phase ([] ++ [.complete st res]) = some .between := by rw [hstart]; rfl
  cases h with
  | locks hfits hgate =>
    have := hs.goesOn hb hi hgate hfits (fun h => nomatch h) (es := []) (by rw [hstart]; rfl) s.savedMode
    simpa [State.goto, Seq.locked, hl] using this
  | completes _ res =>
    have := hs.ends (statusOk_okStatus s.status s.cmd) (hphase _ res) s.initState
    simpa [State.complete, State.finish, hl] using this
  | raises e he =>
    have := hs.ends ((hi ▸ he : RaisedBy s.cfg (decode s.cmd) e).statusOk s.status) (hphase _ s.result) s.initState
    simpa [State.raise_eq, hl, errorStatus_eq] using this

theorem AnswerStep.inv {i : Instr} {got : Option (List Byte)} {s t : State} (h : AnswerStep i got s t) (hs : s.Inv)
    (hb : s.busy = true) (hi : decode s.cmd = .ok i) (hp : s.seq.phase = .locked) : t.Inv := by
  have hl := hs.lockHeld_of_locked hp
  have hfree := hs.other_free hl
  have hgate : gateOk i s.initState = true :=
    (hs.fits hi (fun hq => by simp [hq, Seq.phase] at hp) (fun hq => by simp [hq, Seq.phase] at hp)).2
  have hphase (st res : Word) : phaseFrom s.seq.phase ([.unlock] ++ [.complete st res]) = some .between := by
    rw [hp]; rfl
  cases h with
  | goes q hq hfits =>
    have := hs.goesOn hb hi hgate hfits (fun _ => hfree) (es := []) (by rw [hp, hq]; rfl) s.savedMode
    simpa [State.goto, (Seq.locked_iff q).mpr (.inl hq), hl] using this
  | savesMode bytes hstart =>
    subst hstart
    have := hs.goesOn hb hi hgate (q := .bringUp .two) rfl (fun _ => hfree) (es := []) (by rw [hp]; rfl) (modeByte bytes)
    simpa [State.goto, State.saveMode, Seq.locked, hl] using this
  | waits hstart =>
    subst hstart
    have := hs.goesOn hb hi hgate (q := .settle) rfl (fun _ => hfree) (es := [.settleStart]) (by rw [hp]; rfl) s.savedMode
    simpa [State.goto, State.record, Seq.locked, hl] using this
  | completes x res =>
    have := hs.ends (statusOk_okStatus s.status s.cmd) (hphase _ res) x
    simpa [State.complete, State.finish, State.setInit, State.unlock] using this
  | raises x e he =>
    have := hs.ends ((hi ▸ he : RaisedBy s.cfg (decode s.cmd) e).statusOk s.status) (hphase _ s.result) x
    simpa [State.raise_eq, State.setInit, hl, errorStatus_eq] using this

/-- Every move keeps the invariant. -/
theorem deliver_inv (cfg : Cfg) {i : Instr} (m : EnvMove) {s : State} (hs : s.Inv) (hb : s.busy = true)
    (hi : decode s.cmd = .ok i) : ((pseudocode cfg i).deliver m s).Inv := by
  obtain h | ⟨-, h⟩ | ⟨-, h⟩ | ⟨-, hseq, hfree, h⟩ | ⟨a, r, -, hr, h⟩ | ⟨-, hseq, h⟩ :=
    (pseudocode cfg i).deliver_cases m s <;> rw [h]
  · exact hs
  · exact hs.otherTakes
  · exact hs.otherReleases
  · obtain ⟨hfits, hgate⟩ := hs.fits hi (by simp [hseq]) (by simp [hseq])
    obtain ⟨q, hq, hfits', hg⟩ | ⟨hnot, -⟩ := granted_step cfg i s.takeLock
    · have := hs.goesOn hb hi hgate hfits' (fun _ => hfree) (es := [.lock]) (by rw [hseq, hq]; rfl) s.savedMode
      rw [hg]
      simpa [State.goto, State.takeLock, (Seq.locked_iff q).mpr (.inl hq)] using this
    · simp [hseq, hnot] at hfits
  · have hp := request_phase hr
    exact (answered_step hr (State.record_seq s _) _).inv (hs.record (by rw [hp]; rfl)) hb hi hp
  · obtain ⟨hfits, hgate⟩ := hs.fits hi (by simp [hseq]) (by simp [hseq])
    obtain ⟨rfl, hg⟩ | ⟨hnot, -⟩ := settled_step cfg i (s.record .settleEnd)
    · have hl : s.lockHeld = true := by rw [hs.lock_iff, hseq]; rfl
      have := hs.goesOn hb hi hgate (q := .bringUp .seven) rfl (fun _ => hs.other_free hl) (es := [.settleEnd])
        (by rw [hseq]; rfl) s.savedMode
      rw [hg]
      simpa [State.goto, State.record, Seq.locked, hl] using this
    · simp [hseq, hnot] at hfits

theorem run_inv (cfg : Cfg) {i : Instr} {s : State} (hs : s.Inv) (hb : s.busy = true) (hi : decode s.cmd = .ok i) :
    ((pseudocode cfg i).run s).Inv := by
  have hdec {u : State} (h : Kept (.ok i) s u) : decode u.cmd = .ok i := by rw [h.cmd, hi]
  exact (Pseudocode.run_keeps _ (P := fun t => Kept (.ok i) s t ∧ t.Inv) s hb
    (fun hstart => ⟨(first_step cfg i s).kept, (first_step cfg i s).inv hs hb hi hstart⟩) (fun _ => ⟨.refl s, hs⟩)
    (fun m u hu ⟨hk, h⟩ => ⟨hk.trans (deliver_kept cfg i m u), deliver_inv cfg m h hu (hdec hk)⟩)
    (fun l _ ⟨hk, h⟩ => ⟨hk.setEnv l, h.setEnv l⟩)).2

/-- An illegal word is still at its start, so it ends with no lock to release (R211). -/
theorem completeIllegal_inv {s : State} (hs : s.Inv) (hb : s.busy = true) {e : DecodeError} (he : decode s.cmd = .error e) :
    s.completeIllegal.Inv := by
  have hstart : s.seq = .start := by
    obtain hq | hq | ⟨i, hi, -⟩ := hs.position
    · exact absurd hq (hs.busy_iff.mp hb)
    · exact hq
    · simp [he] at hi
  have hl : s.lockHeld = false := by rw [hs.lock_iff, hstart]; rfl
  have := hs.ends (statusOk_illegalCmd s.status s.cmd) (res := s.result) (es := []) (by rw [hstart]; rfl) s.initState
  simpa [State.completeIllegal, State.raise_eq, hl, errorStatus_eq] using this

namespace State.Inv

variable {s : State}

theorem idle_of_not_busy (h : s.Inv) (hb : s.busy = false) : s.seq = .idle := by
  by_contra hq
  simp [h.busy_iff.mpr hq] at hb

/-- What is outside the block is free to move while the block holds no lock. -/
theorem outside (h : s.Inv) (hl : s.lockHeld = false) (rest : List HostMove) (l : List EnvMove) (b : Bool) :
    State.Inv { s with hostQueue := rest, env := l, otherHolds := b } :=
  ⟨h.busy_iff, h.lock_iff, by simp [hl], h.position, h.discipline, h.status_ok⟩

theorem accept (h : s.Inv) (hb : s.busy = false) (w : CmdWord) : (s.accept w).Inv := by
  have hseq := h.idle_of_not_busy hb
  have hl : s.lockHeld = false := by rw [h.lock_iff, hseq]; rfl
  exact
    { busy_iff := by simp
      lock_iff := hl
      exclusive := by simp [hl]
      position := .inr (.inl rfl)
      discipline := by rw [accept_history, phaseOf_append h.discipline, hseq]; rfl
      status_ok := h.status_ok }

theorem resetWith (cfg : Cfg) : (State.resetWith cfg).Inv where
  busy_iff := by simp [State.resetWith]
  lock_iff := rfl
  exclusive := by simp [State.resetWith]
  position := .inl rfl
  discipline := rfl
  status_ok := show statusOk 0 = true by decide

theorem resetBlock (s : State) : s.resetBlock.Inv :=
  (resetWith s.cfg).outside rfl s.hostQueue s.env s.otherHolds

end State.Inv

theorem bringUpTrace_resetWith (cfg : Cfg) : BringUpTrace (State.resetWith cfg) where
  accepted := by simp [State.resetWith]
  before := by simp [State.resetWith]
  soFar := by simp [State.resetWith]
  atSettle := by simp [State.resetWith]
  underSleep := by simp [State.resetWith]

theorem idle_step_inv {s t : State} (hs : s.Inv) (hb : s.busy = false) (h : step s = .next t) : t.Inv := by
  have hl : s.lockHeld = false := by rw [hs.lock_iff, hs.idle_of_not_busy hb]; rfl
  obtain ⟨w, rest, rfl⟩ | ⟨-, rest, rfl⟩ | ⟨rest, l, b, rfl⟩ := step_of_idle hb h
  · exact (hs.outside hl rest s.env s.otherHolds).accept hb w
  · exact .resetBlock _
  · exact hs.outside hl rest l b

/-! ### The invariant: obligations -/

/-- Settles O14: a running command keeps the invariant move by move, an illegal word ends at its start, and a block at rest holds
no lock. -/
theorem stepKeepsInvariant : Obligations.StepKeepsInvariant := by
  intro s t hs h
  obtain ⟨i, hb, hi, rfl⟩ | ⟨e, hb, he, rfl⟩ | ⟨hb, -⟩ := step_cases h
  · exact run_inv s.cfg hs hb hi
  · exact completeIllegal_inv hs hb he
  · exact idle_step_inv hs hb h

/-- Settles O13: reset leaves no history, no lock and a STATUS of 0. -/
theorem invariantHoldsAtReset : Obligations.InvariantHoldsAtReset :=
  ⟨fun cfg => ⟨.resetWith cfg, bringUpTrace_resetWith cfg⟩, .resetWith _, bringUpTrace_resetWith _⟩

end Sys2Proof.Machine
end

section
/-! CERTIFICATES. STATUS, RESULT, the configuration and the history over a step. -/

namespace Sys2Proof.Machine

open Sys2Proof.Claims

theorem getLsbD_of_extractLsb'_zero {w : Word} {a n : Nat} (h : w.extractLsb' a n = 0) {k : Nat} (hk : k < n) :
    w.getLsbD (a + k) = false := by
  have := congrArg (fun v => v.getLsbD k) h
  simpa [hk] using this

/-- Settles O45: the fields of the packed word, and the numbers. -/
theorem statusFieldsStandWhereTheyShould : Obligations.StatusFieldsStandWhereTheyShould := by
  refine ⟨fun sticky op e => ?_, by decide, by decide, by decide⟩
  have h28 {k : Nat} (hk : k < 3) := getLsbD_of_extractLsb'_zero (reserved28_statusWord sticky op e) hk
  exact ⟨codeOf_statusWord .., stepOf_statusWord .., errRegOf_statusWord .., errDevOf_statusWord .., lastOpOf_statusWord ..,
    stickyOf_statusWord .., getLsbD_of_extractLsb'_zero (reserved23_statusWord ..) (k := 0) (by omega),
    h28 (k := 0) (by omega), h28 (k := 1) (by omega), h28 (k := 2) (by omega)⟩

/-- Settles O53: a running command and a block at rest keep the configuration and the history; so does the configuration at
reset. -/
theorem configurationStaysAndHistoryGrows : Obligations.ConfigurationStaysAndHistoryGrows := by
  refine ⟨fun s t h => ?_, fun s t h hreset => ?_⟩ <;> cases hb : s.busy
  · obtain ⟨w, rest, rfl⟩ | ⟨-, rest, rfl⟩ | ⟨rest, l, b, rfl⟩ := step_of_idle hb h <;> rfl
  · exact (step_of_busy hb h).1.cfg
  · obtain ⟨es, hes⟩ := (idle_step_frame hb h hreset).history
    exact ⟨es, hes.symm⟩
  · obtain ⟨es, hes⟩ := (step_of_busy hb h).1.history
    exact ⟨es, hes.symm⟩

/-- Settles O47: a waiting command and an error leave RESULT, and so does a block at rest. -/
theorem resultIsWrittenOnlyOnOk : Obligations.ResultIsWrittenOnlyOnOk := by
  intro s t h hreset hne
  cases hb : s.busy
  · exact absurd (idle_step_frame hb h hreset).result hne
  · cases (step_of_busy hb h).2 with
    | waiting _ _ hr => exact absurd hr hne
    | completed hb' hst => exact ⟨rfl, hb', by simp [hst, okStatus, Code.bits]⟩
    | failed _ _ _ _ hr => exact absurd hr hne

/-- What an error records, by its code (R210–R215). -/
theorem RaisedBy.fields {cfg : Cfg} {d : Except DecodeError Instr} {e : ErrInfo} (h : RaisedBy cfg d e) :
    e.code.bits ≠ 0 ∧ e.errDev = (if e.code.bits = 4 ∨ e.code.bits = 5 then cfg.dev else 0) ∧
    (e.code.bits ≠ 3 → e.code.bits ≠ 4 → e.errReg = 0) ∧
    (if e.code.bits = 4 ∧ d = .ok .start then
      e.step = 1 ∨ e.step = 2 ∨ e.step = 3 ∨ e.step = 4 ∨ e.step = 5 ∨ e.step = 7 else e.step = 0) := by
  cases h with
  | illegalCmd | probeGate | startGate | encodeRange | deviceNotFound =>
    simp [Machine.illegalCmd, seqError, Machine.encodeRange, Machine.deviceNotFound, Code.bits]
  | @busIo i hi =>
    have hne : i ≠ .start := by rintro rfl; exact hi
    simp [Machine.busIo, Code.bits, hne]
  | bringUp k => cases k <;> simp [Machine.busIo, Code.bits, BringUpStep.number]

theorem Code.bits_le (c : Code) : c.bits.toNat ≤ 5 := by cases c <;> decide

/-- Settles O46: STATUS is written at the end of a command, field by field as R217 and R218 have it. -/
theorem statusIsWrittenOnlyAtCompletion : Obligations.StatusIsWrittenOnlyAtCompletion := by
  refine ⟨fun s t hb h hb' => ((step_of_busy hb h).2.of_busy hb').1, fun s t hb h hb' => ?_,
    fun s t hb h hreset => (idle_step_frame hb h hreset).status⟩
  cases (step_of_busy hb h).2 with
  | waiting hbusy => simp [hb'] at hbusy
  | completed _ hst => simp [hst, okStatus, Code.bits]
  | failed e he _ hst =>
    obtain ⟨hcode, hdev, hreg, hstep⟩ := he.fields
    simp only [hst, errorStatus_eq, codeOf_statusWord, lastOpOf_statusWord, errDevOf_statusWord, errRegOf_statusWord,
      stepOf_statusWord, stickyOf_statusWord, reserved23_statusWord, reserved28_statusWord]
    exact ⟨e.code.bits_le, trivial, hdev, hreg, hstep, trivial, trivial, (if_neg hcode).symm⟩

end Sys2Proof.Machine
end

section
/-! SUPPORT. What a command does not look at: the moves to come (R28), and, but for START, SAVED_MODE (R27). -/

namespace Sys2Proof.Machine

open Sys2Proof.Claims

/-- Other moves to come, and another SAVED_MODE. -/
def State.disguise (l : List EnvMove → List EnvMove) (m : Byte → Byte) (s : State) : State :=
  { s with env := l s.env, savedMode := m s.savedMode }

@[simp] theorem disguise_seq (l : List EnvMove → List EnvMove) (m : Byte → Byte) (s : State) :
    (s.disguise l m).seq = s.seq := rfl
@[simp] theorem disguise_initState (l : List EnvMove → List EnvMove) (m : Byte → Byte) (s : State) :
    (s.disguise l m).initState = s.initState := rfl
@[simp] theorem disguise_busy (l : List EnvMove → List EnvMove) (m : Byte → Byte) (s : State) :
    (s.disguise l m).busy = s.busy := rfl
@[simp] theorem disguise_canGrant (l : List EnvMove → List EnvMove) (m : Byte → Byte) (s : State) :
    (s.disguise l m).canGrant = s.canGrant := rfl

theorem raise_disguise (l : List EnvMove → List EnvMove) (m : Byte → Byte) (e : ErrInfo) (s : State) :
    (s.disguise l m).raise e = (s.raise e).disguise l m := by
  simp only [State.raise_eq]
  rfl

/-- The pseudocode does not look at what is disguised, and leaves it: each internal step comes to the same. -/
structure Pseudocode.Blind (l : List EnvMove → List EnvMove) (m : Byte → Byte) (p : Pseudocode) : Prop where
  first    : ∀ s : State, p.first (s.disguise l m) = (p.first s).disguise l m
  granted  : ∀ s : State, p.granted (s.disguise l m) = (p.granted s).disguise l m
  request  : ∀ s : State, p.request (s.disguise l m) = p.request s
  answered : ∀ (got : Option (List Byte)) (s : State), p.answered got (s.disguise l m) = (p.answered got s).disguise l m
  settled  : ∀ s : State, p.settled (s.disguise l m) = (p.settled s).disguise l m

section Blind

variable (l : List EnvMove → List EnvMove) (m : Byte → Byte)

theorem oneAccess_blind {first : State → State} (hfirst : ∀ s : State, first (s.disguise l m) = (first s).disguise l m)
    (reg : Byte) (req : DevAddr → BusRequest) (result : List Byte → Word) :
    (Pseudocode.oneAccess first reg req result).Blind l m where
  first := hfirst
  granted _ := rfl
  request _ := rfl
  answered got s := by
    cases got with
    | none => exact raise_disguise l m _ s
    | some bytes => rfl
  settled _ := rfl

theorem probe_blind : probeCode.Blind l m where
  first s := by
    by_cases h : s.initState = .notFound <;> simp only [probeCode, disguise_initState, h, ↓reduceIte]
    · exact raise_disguise l m _ s
    · rfl
  granted _ := rfl
  request _ := rfl
  answered got s := by
    simp only [probeCode, probeAnswered, probeFound_eq, disguise_seq]
    split
    · rfl
    · rfl
    · rfl
    · exact raise_disguise l m _ (s.setInit .notFound)
    · rfl
  settled _ := rfl

/-- START reads SAVED_MODE, but not the moves to come. -/
theorem start_blind : startCode.Blind l id where
  first s := by
    by_cases h : startAllowed s.initState = true <;>
      simp only [startCode, disguise_initState, h, Bool.false_eq_true, ↓reduceIte]
    · rfl
    · exact raise_disguise l id _ s
  granted _ := rfl
  request _ := rfl
  answered got s := by
    simp only [startCode, startAnswered, disguise_seq]
    split
    case h_1 k _ _ => cases k <;> rfl
    · exact raise_disguise l id _ (s.setInit .startFailed)
    · rfl
  settled _ := rfl

theorem pseudocode_blind (cfg : Cfg) {i : Instr} (hi : i ≠ .start ∨ m = id) : (pseudocode cfg i).Blind l m := by
  obtain ⟨k, v, rfl⟩ | h1 | rfl | rfl := instr_kinds i
  · exact ⟨fun _ => rfl, fun _ => rfl, fun _ => rfl, fun _ _ => rfl, fun _ => rfl⟩
  · obtain ⟨first, reg, req, result, hp, hfirst⟩ := pseudocode_oneAccess h1 cfg
    rw [hp]
    obtain rfl | ⟨e, -, rfl⟩ := hfirst
    · exact oneAccess_blind l m (first := State.goto .lock) (fun _ => rfl) reg req result
    · exact oneAccess_blind l m (raise_disguise l m e) reg req result
  · exact probe_blind l m
  · obtain hne | rfl := hi
    · exact absurd rfl hne
    · exact start_blind l

end Blind

namespace Pseudocode

variable {l : List EnvMove → List EnvMove} {m : Byte → Byte} {p : Pseudocode}

theorem deliver_disguise (h : p.Blind l m) (x : EnvMove) (s : State) :
    p.deliver x (s.disguise l m) = (p.deliver x s).disguise l m := by
  cases x with
  | otherLock | otherUnlock | delay => rfl
  | grant =>
    by_cases hg : s.canGrant = true <;> simp only [deliver, disguise_canGrant, hg, Bool.false_eq_true, ↓reduceIte]
    exact h.granted s.takeLock
  | answer a =>
    simp only [deliver, onAnswer, h.request]
    split
    · exact h.answered _ (s.record _)
    · rfl
  | settle =>
    by_cases hq : s.seq = .settle <;> simp only [deliver, disguise_seq, hq, ↓reduceIte]
    exact h.settled (s.record .settleEnd)

/-- A run over given moves: those that stand in the state do not matter. -/
theorem carryOn_disguise (h : p.Blind l m) (moves : List EnvMove) (s : State) :
    p.carryOn moves (s.disguise l m) = (p.carryOn moves s).disguise id m := by
  induction moves generalizing s with
  | nil => rfl
  | cons x rest ih =>
    by_cases hx : x = .delay
    · subst hx; rfl
    · rw [carryOn_cons p hx, carryOn_cons p hx, deliver_disguise h, ih]
      by_cases hd : (p.deliver x s).busy = true <;> simp only [disguise_busy, hd, Bool.false_eq_true, ↓reduceIte]
      rfl

/-- A run with another SAVED_MODE is the same run, for a pseudocode that does not look at it. -/
theorem run_disguise (h : p.Blind id m) (s : State) : p.run (s.disguise id m) = (p.run s).disguise id m := by
  have henv : (s.disguise id m).env = s.env := rfl
  by_cases hs : s.seq = .start
  · rw [run_atStart p (s := s.disguise id m) hs, run_atStart p hs, h.first, carryOn_disguise h, henv]
    by_cases hf : (p.first s).busy = true <;> simp only [disguise_busy, hf, Bool.false_eq_true, ↓reduceIte]
  · rw [run_waiting p (s := s.disguise id m) hs, run_waiting p hs, carryOn_disguise h, henv]

theorem carryOn_setEnv {p : Pseudocode} (h : ∀ l, p.Blind l id) (l moves : List EnvMove) (s : State) :
    p.carryOn moves (s.setEnv l) = p.carryOn moves s :=
  carryOn_disguise (h fun _ => l) moves s

/-- A run cut by a delay stops there, if its command still runs; carried on, it is the run over the uncut moves. -/
theorem carryOn_cut {p : Pseudocode} (h : ∀ l, p.Blind l id) {first later : List EnvMove} (hfirst : EnvMove.delay ∉ first)
    {s : State} (hb : (p.carryOn (first ++ .delay :: later) s).busy = true) :
    (p.carryOn (first ++ .delay :: later) s).env = later ∧
    p.carryOn later (p.carryOn (first ++ .delay :: later) s) = p.carryOn (first ++ later) s := by
  induction first generalizing s with
  | nil => exact ⟨rfl, carryOn_setEnv h later later s⟩
  | cons x rest ih =>
    obtain ⟨hx, hrest⟩ := not_or.mp (List.mem_cons.not.mp hfirst)
    rw [List.cons_append, carryOn_cons p (Ne.symm hx)] at hb ⊢
    by_cases hd : (p.deliver x s).busy = true
    · rw [if_pos hd] at hb ⊢
      rw [List.cons_append, carryOn_cons p (Ne.symm hx), if_pos hd]
      exact ih hrest hb
    · rw [if_neg hd] at hb
      exact absurd hb hd

/-- A run that does not end takes the moves to come from some state on, whatever they are. -/
theorem run_eq_carryOn {p : Pseudocode} (h : ∀ l, p.Blind l id) {s : State} (hb : (p.run s).busy = true) :
    ∃ u, ∀ l, p.run (s.setEnv l) = p.carryOn l u := by
  by_cases hs : s.seq = .start
  · refine ⟨p.first s, fun l => ?_⟩
    have hfirst : p.first (s.setEnv l) = (p.first s).setEnv l := (h fun _ => l).first s
    have hf : (p.first s).busy = true := by
      by_contra hf
      rw [run_atStart p hs, if_neg hf] at hb
      exact hf hb
    rw [run_atStart p (s := s.setEnv l) hs, hfirst, State.setEnv_busy, if_pos hf, State.setEnv_env, carryOn_setEnv h]
  · exact ⟨s, fun l => by rw [run_waiting p (s := s.setEnv l) hs, State.setEnv_env, carryOn_setEnv h]⟩

/-- A run cut by a delay and carried on, where the command has not come back to its start. -/
theorem run_cut {p : Pseudocode} (h : ∀ l, p.Blind l id) {first later : List EnvMove} (hfirst : EnvMove.delay ∉ first)
    {s : State} (henv : s.env = first ++ .delay :: later) (hb : (p.run s).busy = true) (hseq : (p.run s).seq ≠ .start) :
    p.run (p.run s) = p.run (s.setEnv (first ++ later)) := by
  obtain ⟨u, hu⟩ := run_eq_carryOn h hb
  have hs : p.run s = p.carryOn (first ++ .delay :: later) u := by rw [← hu, ← henv]; rfl
  rw [run_waiting p hseq, hu, hs]
  rw [hs] at hb
  obtain ⟨hlater, hcut⟩ := carryOn_cut h hfirst hb
  rw [hlater, hcut]

end Pseudocode

/-! ### BLOCK does not come back to the start of the pseudocode -/

theorem FirstStep.seq_ne_start {i : Instr} {s t : State} (h : FirstStep i s t) : t.seq ≠ .start := by
  cases h <;> simp

theorem AnswerStep.seq_ne_start {i : Instr} {got : Option (List Byte)} {s t : State} (h : AnswerStep i got s t) :
    t.seq ≠ .start := by
  cases h with
  | goes q hq => rintro rfl; cases hq
  | savesMode | waits | completes | raises => simp

theorem deliver_seq_ne_start (cfg : Cfg) (i : Instr) (m : EnvMove) {s : State} (hs : s.seq ≠ .start) :
    ((pseudocode cfg i).deliver m s).seq ≠ .start := by
  obtain h | ⟨-, h⟩ | ⟨-, h⟩ | ⟨-, -, -, h⟩ | ⟨a, r, -, hr, h⟩ | ⟨-, -, h⟩ := (pseudocode cfg i).deliver_cases m s <;>
    rw [h]
  · exact hs
  · exact hs
  · exact hs
  · obtain ⟨q, hq, -, hg⟩ | ⟨-, hg⟩ := granted_step cfg i s.takeLock <;> rw [hg]
    · rintro rfl; cases hq
    · exact hs
  · exact (answered_step hr (State.record_seq s _) _).seq_ne_start
  · obtain ⟨-, hg⟩ | ⟨-, hg⟩ := settled_step cfg i (s.record .settleEnd) <;> rw [hg]
    · simp
    · exact hs

theorem run_seq_ne_start (cfg : Cfg) (i : Instr) {s : State} (hb : s.busy = true) :
    ((pseudocode cfg i).run s).seq ≠ .start :=
  Pseudocode.run_keeps _ (P := fun t => t.seq ≠ .start) s hb (fun _ => (first_step cfg i s).seq_ne_start) id
    (fun m _ _ => deliver_seq_ne_start cfg i m) (fun _ _ h => h)

/-- Settles O52: no internal step looks at the moves to come, and the run cut at the delay goes on from a wait point. -/
theorem delaysAreInvisible : Obligations.DelaysAreInvisible := by
  intro i s t first later hb henv hfirst hexec hbt
  rw [exec_eq_run] at hexec
  cases hexec
  rw [exec_eq_run, exec_eq_run, (run_kept s.cfg i s).cfg]
  exact congrArg _ (Pseudocode.run_cut (fun l => pseudocode_blind l id s.cfg (.inr rfl)) hfirst henv hbt
    (run_seq_ne_start s.cfg i hb))

/-! ### SAVED_MODE between commands (R27) -/

/-- Two runs of a START that differ in SAVED_MODE only, and in nothing once the mode byte is read. -/
def SavedApart (s s' : State) : Prop :=
  s' = s ∨ ((s.seq = .idle ∨ s.seq = .lock ∨ s.seq = .bringUp .one) ∧ ∃ m, s' = s.saveMode m)

theorem SavedApart.eq_up_to {s s' : State} (h : SavedApart s s') : s' = { s with savedMode := s'.savedMode } := by
  obtain rfl | ⟨-, m, rfl⟩ := h <;> rfl

theorem SavedApart.busy {s s' : State} (h : SavedApart s s') : s'.busy = s.busy := by
  obtain rfl | ⟨-, m, rfl⟩ := h <;> rfl

theorem SavedApart.setEnv {s s' : State} (h : SavedApart s s') (l : List EnvMove) : SavedApart (s.setEnv l) (s'.setEnv l) := by
  obtain rfl | ⟨hq, m, rfl⟩ := h
  · exact .inl rfl
  · exact .inr ⟨hq, m, rfl⟩

theorem raise_saveMode (m : Byte) (e : ErrInfo) (s : State) : (s.saveMode m).raise e = (s.raise e).saveMode m :=
  raise_disguise id (fun _ => m) e s

theorem SavedApart.raise (m : Byte) (e : ErrInfo) (s : State) : SavedApart (s.raise e) ((s.saveMode m).raise e) :=
  .inr ⟨.inl (s.raise_seq e), m, raise_saveMode m e s⟩

theorem start_first_savedApart (m : Byte) (s : State) : SavedApart (startCode.first s) (startCode.first (s.saveMode m)) := by
  by_cases h : startAllowed s.initState = true <;>
    simp only [startCode, State.saveMode_initState, h, Bool.false_eq_true, ↓reduceIte]
  · exact .inr ⟨.inr (.inl rfl), m, rfl⟩
  · exact .raise m _ s

/-- Step 1 reads the mode byte, and a failure of it ends the command. -/
theorem start_answer_savedApart {s : State} (hseq : s.seq = .bringUp .one) (a : BusAnswer) (m : Byte) :
    SavedApart (startCode.onAnswer a s) (startCode.onAnswer a (s.saveMode m)) := by
  have hrequest (u : State) (hu : u.seq = .bringUp .one) : startCode.request u = some (memRead u.cfg.dev modeAddr 1) := by
    simp [startCode, hu, bringUpRequest]
  simp only [Pseudocode.onAnswer, hrequest s hseq, hrequest (s.saveMode m) hseq, State.saveMode_cfg]
  generalize (memRead s.cfg.dev modeAddr 1).outcome a = got
  simp only [startCode, startAnswered, State.record_seq, State.saveMode_seq, hseq]
  cases got with
  | none => exact .raise m _ ((s.record _).setInit .startFailed)
  | some bytes => exact .inl rfl

theorem start_deliver_savedApart (x : EnvMove) {s s' : State} (h : SavedApart s s') :
    SavedApart (startCode.deliver x s) (startCode.deliver x s') := by
  obtain rfl | ⟨hq, m, rfl⟩ := h
  · exact .inl rfl
  have same : SavedApart s (s.saveMode m) := .inr ⟨hq, m, rfl⟩
  cases x with
  | otherLock | otherUnlock | delay => exact .inr ⟨hq, m, rfl⟩
  | grant =>
    have hcan : (s.saveMode m).canGrant = s.canGrant := rfl
    by_cases hg : s.canGrant = true <;> simp only [Pseudocode.deliver, hcan, hg, Bool.false_eq_true, ↓reduceIte]
    · exact .inr ⟨.inr (.inr rfl), m, rfl⟩
    · exact same
  | answer a =>
    obtain hseq | hseq | hseq := hq
    · simpa [Pseudocode.deliver, Pseudocode.onAnswer, startCode, hseq] using same
    · simpa [Pseudocode.deliver, Pseudocode.onAnswer, startCode, hseq] using same
    · exact start_answer_savedApart hseq a m
  | settle =>
    have hne : s.seq ≠ .settle := by obtain hseq | hseq | hseq := hq <;> simp [hseq]
    simpa [Pseudocode.deliver, hne] using same

theorem start_carryOn_savedApart (moves : List EnvMove) {s s' : State} (h : SavedApart s s') :
    SavedApart (startCode.carryOn moves s) (startCode.carryOn moves s') := by
  induction moves generalizing s s' with
  | nil => exact h.setEnv []
  | cons x rest ih =>
    by_cases hx : x = .delay
    · subst hx; exact h.setEnv rest
    · have hd := start_deliver_savedApart x h
      rw [Pseudocode.carryOn_cons _ hx, Pseudocode.carryOn_cons _ hx, hd.busy]
      split
      · exact ih hd
      · exact hd.setEnv rest

theorem start_run_savedApart {s : State} (hs : s.seq = .start) (m : Byte) :
    SavedApart (startCode.run s) (startCode.run (s.saveMode m)) := by
  have hf := start_first_savedApart m s
  rw [Pseudocode.run_atStart _ hs, Pseudocode.run_atStart _ (s := s.saveMode m) hs, hf.busy]
  split
  · exact start_carryOn_savedApart s.env hf
  · exact hf

/-- Settles O48: only START looks at SAVED_MODE or writes it, and it has read the mode byte before it looks. -/
theorem savedModeBetweenCommandsIsUnobservable : Obligations.SavedModeBetweenCommandsIsUnobservable := by
  refine ⟨fun i s t h hi => ?_, fun i s t t' m hs h h' => ?_⟩
  · rw [exec_eq_run] at h
    cases h
    exact (run_kept s.cfg i s).savedMode (by simpa using hi)
  · rw [exec_eq_run] at h h'
    cases h
    cases h'
    by_cases hi : i = .start
    · subst hi
      exact (start_run_savedApart hs m).eq_up_to
    · have hrun : (pseudocode s.cfg i).run { s with savedMode := m } = ((pseudocode s.cfg i).run s).saveMode m :=
        Pseudocode.run_disguise (pseudocode_blind id (fun _ => m) s.cfg (.inl hi)) s
      rw [hrun]
      rfl

end Sys2Proof.Machine
end

section
/-! CERTIFICATES. The lock (20_memory.md R53–R55, R63, R64): the command that runs stays, the wait for the grant, the lock hold
around every transaction, and the release at the end of a command. -/

namespace Sys2Proof.Machine

open Sys2Proof.Claims

/-- Settles O8: CMD and the host's moves are in the frame of every step of a running block. -/
theorem runningCommandIsLatched : Obligations.RunningCommandIsLatched := by
  intro s t hb h
  obtain ⟨hkept, -⟩ := step_of_busy hb h
  exact ⟨hkept.cmd, hkept.hostQueue⟩

/-! ### Waiting for the grant (R53) -/

/-- Moves that change nothing are used up, as far as the first delay. -/
theorem Pseudocode.carryOn_of_stutter (p : Pseudocode) {s : State} (hb : s.busy = true) {l : List EnvMove}
    (hl : ∀ m ∈ l, p.deliver m s = s) : ∃ rest, p.carryOn l s = s.setEnv rest := by
  induction l with
  | nil => exact ⟨[], rfl⟩
  | cons m rest ih =>
    by_cases hm : m = .delay
    · subst hm; exact ⟨rest, rfl⟩
    · rw [carryOn_cons p hm, hl m List.mem_cons_self, if_pos hb]
      exact ih fun m' hm' => hl m' (List.mem_cons_of_mem m hm')

/-- While OTHER holds the lock, only OTHER's giving it back changes anything for a block at `Lock()`. -/
theorem deliver_at_lock (cfg : Cfg) (i : Instr) {m : EnvMove} {s : State} (hseq : s.seq = .lock)
    (hother : s.otherHolds = true) (hm : m ≠ .otherUnlock) : (pseudocode cfg i).deliver m s = s := by
  obtain h | ⟨-, h⟩ | ⟨rfl, -⟩ | ⟨-, -, hfree, -⟩ | ⟨a, r, -, hr, -⟩ | ⟨-, hsettle, -⟩ :=
    (pseudocode cfg i).deliver_cases m s
  · exact h
  · rw [h]
    simp only [State.otherTakes, hother, Bool.true_or]
    rw [← hother]
  · exact absurd rfl hm
  · simp [hother] at hfree
  · have hp := request_phase hr
    simp [hseq, Seq.phase] at hp
  · simp [hseq] at hsettle

/-- The grant takes the lock and is recorded, at whatever transaction the command is then. -/
theorem deliver_grant (cfg : Cfg) (i : Instr) {s : State} (hseq : s.seq = .lock) (hfree : s.otherHolds = false) :
    ∃ q, (pseudocode cfg i).deliver .grant s = s.takeLock.goto q := by
  have hcan : s.canGrant = true := by simp [State.canGrant, hseq, hfree]
  simp only [Pseudocode.deliver, hcan, ↓reduceIte]
  obtain ⟨q, -, -, hg⟩ | ⟨-, hg⟩ := granted_step cfg i s.takeLock
  · exact ⟨q, hg⟩
  · exact ⟨s.seq, hg⟩

/-- Settles O49: OTHER's hold keeps every other move from changing anything, and the grant takes the lock. -/
theorem lockWaitsForTheGrant : Obligations.LockWaitsForTheGrant := by
  refine ⟨fun s t i hb hi hseq hother hnot h => ?_, fun s t i hb hi hseq hfree henv h => ?_⟩
  all_goals
    obtain rfl : (pseudocode s.cfg i).run s = t := by
      simpa [step, hb, hi, exec_eq_run] using h
    rw [Pseudocode.run_waiting _ (by simp [hseq])]
  · obtain ⟨rest, hrun⟩ := (pseudocode s.cfg i).carryOn_of_stutter hb fun m hm =>
      deliver_at_lock s.cfg i hseq hother fun hm' => hnot (hm' ▸ hm)
    rw [hrun]
    exact ⟨hb, hseq, hother, rfl, rfl⟩
  · obtain ⟨q, hgrant⟩ := deliver_grant s.cfg i hseq hfree
    simp [henv, Pseudocode.carryOn_cons, hgrant, hb]

/-! ### The lock hold around a transaction (R55) -/

/-- A history is one with its last event left out, and the phase that event leads from. -/
theorem phaseOf_concat {h : List Event} {e : Event} {q : Phase} :
    phaseOf (h ++ [e]) = some q ↔ ∃ p, phaseOf h = some p ∧ p.after e = some q := by
  rw [phaseOf, phaseFrom_append, Option.bind_eq_some_iff]
  refine exists_congr fun p => and_congr_right fun _ => ?_
  cases he : p.after e <;> simp [phaseFrom, he]

/-- A lock hold goes on until its Unlock, and only Lock begins one. -/
theorem Phase.after_holding {p q : Phase} {e : Event} (h : p.after e = some q) (hq : q = .locked ∨ q = .settling) :
    e = .lock ∨ ((p = .locked ∨ p = .settling) ∧ e ≠ .unlock) := by
  -- `cases h` leaves the eight events the discipline admits
  cases p <;> cases e <;> cases h
  all_goals simp at hq ⊢

/-- A history that stands in a lock hold has the Lock that began it. -/
theorem lock_of_phase_holding {h : List Event} {q : Phase} (hh : phaseOf h = some q) (hq : q = .locked ∨ q = .settling) :
    ∃ a b, h = a ++ .lock :: b ∧ Event.unlock ∉ b := by
  induction h using List.reverseRecOn generalizing q with
  | nil => cases hh; simp at hq
  | append_singleton es e ih =>
    obtain ⟨p, hp, he⟩ := phaseOf_concat.mp hh
    obtain rfl | ⟨hp', hne⟩ := Phase.after_holding he hq
    · exact ⟨es, [], rfl, List.not_mem_nil⟩
    · obtain ⟨a, b, rfl, hb⟩ := ih hp hp'
      exact ⟨a, b ++ [e], by simp, by simp [hb, hne.symm]⟩

/-- Settles O50: the discipline admits a transaction in a lock hold only. -/
theorem transactionsOnlyUnderTheLock : Obligations.TransactionsOnlyUnderTheLock := by
  intro s before after r got hs hhist
  have hd := hs.discipline
  rw [hhist, List.append_cons, phaseOf, phaseFrom_append, Option.bind_eq_some_iff] at hd
  obtain ⟨q, hq, -⟩ := hd
  obtain ⟨p, hp, htx⟩ := phaseOf_concat.mp hq
  cases p with
  | locked => exact lock_of_phase_holding hp (.inl rfl)
  | _ => cases htx

/-! ### The end of a lock hold (R63, R64, R217, R218) -/

/-- What a run records, and what it leaves of the lock: while the command runs, a lock once held is held; at its end Complete is the
last event, and where the lock was held its Unlock comes right before. -/
inductive LockCourse (s t : State) : Prop where
  | running (es : List Event) (hbusy : t.busy = true) (hhistory : t.history = s.history ++ es)
      (hlock : s.lockHeld = true ∨ Event.lock ∈ es → t.lockHeld = true)
  | ended (es : List Event) (hbusy : t.busy = false)
      (hhistory : t.history = s.history ++ (es ++ [.complete t.status t.result]))
      (hlock : s.lockHeld = true ∨ Event.lock ∈ es → es.getLast? = some .unlock)

namespace LockCourse

variable {s t u : State}

/-- The command still runs, without an event: SEQ, SAVED_MODE, OTHER's hold or the moves to come may have changed. -/
theorem quiet (hbusy : t.busy = true) (hhistory : t.history = s.history) (hlock : t.lockHeld = s.lockHeld) :
    LockCourse s t :=
  .running [] hbusy (by simpa using hhistory) (by simp [hlock])

/-- Carried on from a state in which the command still ran. -/
theorem trans (h : LockCourse s u) (hbusy : u.busy = true) (h' : LockCourse u t) : LockCourse s t := by
  cases h with
  | ended _ hb => simp [hbusy] at hb
  | running es _ hes hl =>
    have held {es' : List Event} (h : s.lockHeld = true ∨ Event.lock ∈ es ++ es') :
        u.lockHeld = true ∨ Event.lock ∈ es' := by
      rw [List.mem_append, ← or_assoc] at h
      exact h.imp_left hl
    cases h' with
    | running es' hb' hes' hl' => exact .running (es ++ es') hb' (by simp [hes', hes]) fun h => hl' (held h)
    | ended es' hb' hes' hl' =>
      exact .ended (es ++ es') hb' (by simp [hes', hes]) fun h => by simp [List.getLast?_append, hl' (held h)]

theorem setEnv (h : LockCourse s t) (l : List EnvMove) : LockCourse s (t.setEnv l) := by
  cases h with
  | running es hb hes hl => exact .running es hb hes hl
  | ended es hb hes hl => exact .ended es hb hes hl

/-- An event of a lock hold, or of the settle wait in it. -/
theorem record (hbusy : s.busy = true) {e : Event} (he : e ≠ .lock) : LockCourse s (s.record e) :=
  .running [e] hbusy rfl (by simp [he.symm])

/-- Error entry gives the lock back where it is held. -/
theorem raise (e : ErrInfo) (s : State) : LockCourse s (s.raise e) := by
  refine .ended (if s.lockHeld then [.unlock] else []) (by simp) (by simp [State.raise_eq]) ?_
  cases s.lockHeld <;> simp

end LockCourse

theorem FirstStep.lockCourse {i : Instr} {s t : State} (h : FirstStep i s t) (hb : s.busy = true)
    (hl : s.lockHeld = false) : LockCourse s t := by
  cases h with
  | locks => exact .quiet hb rfl rfl
  | completes _ res => exact .ended [] rfl rfl (by simp [hl])
  | raises e => exact .raise e s

theorem AnswerStep.lockCourse {i : Instr} {got : Option (List Byte)} {s t : State} (h : AnswerStep i got s t)
    (hb : s.busy = true) : LockCourse s t := by
  cases h with
  | goes | savesMode => exact .quiet hb rfl rfl
  | waits => exact .trans (.record (e := .settleStart) hb nofun) hb (.quiet hb rfl rfl)
  | completes x res => exact .ended [.unlock] rfl (by simp [State.complete]) fun _ => rfl
  | raises x e => exact .trans (u := s.setInit x) (.quiet hb rfl rfl) hb (.raise e _)

theorem deliver_lockCourse (cfg : Cfg) (i : Instr) (m : EnvMove) {s : State} (hb : s.busy = true) :
    LockCourse s ((pseudocode cfg i).deliver m s) := by
  obtain h | ⟨-, h⟩ | ⟨-, h⟩ | ⟨rfl, hseq, hfree, -⟩ | ⟨a, r, -, hr, h⟩ | ⟨-, -, h⟩ :=
    (pseudocode cfg i).deliver_cases m s
  · rw [h]; exact .quiet hb rfl rfl
  · rw [h]; exact .quiet hb rfl rfl
  · rw [h]; exact .quiet hb rfl rfl
  · obtain ⟨q, hgrant⟩ := deliver_grant cfg i hseq hfree
    rw [hgrant]
    exact .running [.lock] hb rfl fun _ => rfl
  · have htx : LockCourse s (s.record (.tx r (r.outcome a))) := .record hb nofun
    rw [h]
    exact htx.trans hb ((answered_step hr (State.record_seq s _) _).lockCourse hb)
  · have hend : LockCourse s (s.record .settleEnd) := .record hb nofun
    obtain ⟨-, hg⟩ | ⟨-, hg⟩ := settled_step cfg i (s.record .settleEnd) <;> rw [h, hg]
    · exact hend.trans hb (.quiet hb rfl rfl)
    · exact hend

theorem run_lockCourse (cfg : Cfg) (i : Instr) {s : State} (hs : s.Inv) (hb : s.busy = true) :
    LockCourse s ((pseudocode cfg i).run s) := by
  refine Pseudocode.run_keeps _ (P := LockCourse s) s hb (fun hstart => ?_) (fun _ => .quiet hb rfl rfl)
    (fun m u hu h => h.trans hu (deliver_lockCourse cfg i m hu)) (fun l _ h => h.setEnv l)
  have hl : s.lockHeld = false := by rw [hs.lock_iff, hstart]; rfl
  exact (first_step cfg i s).lockCourse hb hl

/-- Settles O51: the invariant after the step gives LOCK_HELD and SEQ, and the run's course the last two events. -/
theorem completionReleasesTheLock : Obligations.CompletionReleasesTheLock := by
  intro s t hs hb h hbt
  have ht : t.Inv := stepKeepsInvariant s t hs h
  have hidle : t.seq = .idle := ht.idle_of_not_busy hbt
  refine ⟨by rw [ht.lock_iff, hidle]; rfl, hidle, ?_⟩
  have hcourse : LockCourse s t := by
    obtain ⟨i, -, -, rfl⟩ | ⟨e, -, -, rfl⟩ | ⟨hbs, -⟩ := step_cases h
    · exact run_lockCourse s.cfg i hs hb
    · exact .raise illegalCmd s
    · simp [hb] at hbs
  cases hcourse with
  | running _ hbusy => simp [hbt] at hbusy
  | ended es _ hes hl => exact ⟨es, hes, hl⟩

end Sys2Proof.Machine
end

section
/-! CERTIFICATES. The frame at the chip: which transactions a command issues (20_memory.md R50, R51, R56, R59; 30_encoding.md
R80–R82). -/

namespace Sys2Proof.Machine

open Sys2Proof.Claims

/-- A transaction the command may issue at the device: PROBE's two, or a whole access of one of its registers (R80–R82). -/
def OwnTx (dev : DevAddr) (i : Instr) (r : BusRequest) : Prop :=
  (i = .probe ∧ (r = ⟨.write, dev, [], 0⟩ ∨ r = ⟨.read, dev, [], 1⟩)) ∨
  ∃ a n, (a, n) ∈ registersOf i ∧
    (r = ⟨.writeRead, dev, [a], n⟩ ∨ ∃ payload : List Byte, payload.length = n ∧ r = ⟨.write, dev, a :: payload, 0⟩)

theorem memRead_own {dev : DevAddr} {i : Instr} {a : Byte} {n : Nat} (h : (a, n) ∈ registersOf i) :
    OwnTx dev i (memRead dev a n) :=
  .inr ⟨a, n, h, .inl rfl⟩

theorem memWrite_own {dev : DevAddr} {i : Instr} {a : Byte} {payload : List Byte}
    (h : (a, payload.length) ∈ registersOf i) : OwnTx dev i (memWrite dev a payload) :=
  .inr ⟨a, payload.length, h, .inr ⟨payload, rfl, rfl⟩⟩

/-- The address of the channel bound to a slot (R6, R122). -/
theorem slotAddr_eq (k : Nat) : slotAddr k = if k = 0 then 0x06 else 0x0A := by
  by_cases h : k = 0 <;> simp only [slotAddr, slotChannel, h, ↓reduceIte] <;> rfl

theorem bringUpRequest_own (cfg : Cfg) (m : Byte) (k : BringUpStep) : OwnTx cfg.dev .start (bringUpRequest cfg m k) := by
  cases k with
  | one => exact memRead_own (.head _)
  | two | three | five | seven => exact memWrite_own (.head _)
  | four => exact memWrite_own (.tail _ (.head _))

/-- The one transaction of a SEND, WRITE or READ. -/
theorem oneAccess_own {cfg : Cfg} {i : Instr} {first : State → State} {reg : Byte} {req : DevAddr → BusRequest}
    {result : List Byte → Word} (hp : pseudocode cfg i = .oneAccess first reg req result) {s : State} {r : BusRequest}
    (h : (pseudocode cfg i).request s = some r) (hown : OwnTx s.cfg.dev i (req s.cfg.dev)) : OwnTx s.cfg.dev i r := by
  rw [hp] at h
  obtain ⟨-, hr⟩ := Option.ite_none_right_eq_some.mp h
  cases hr
  exact hown

/-- A command issues its own transactions only, wherever it is. -/
theorem request_own {cfg : Cfg} {i : Instr} {s : State} {r : BusRequest} (h : (pseudocode cfg i).request s = some r) :
    OwnTx s.cfg.dev i r := by
  cases i with
  | convert k v => cases h
  | send k v =>
    have hpwm (off : Half) : (slotAddr k, (pwmPayload 0 off).length) ∈ registersOf (.send k v) := by
      simp [registersOf, slotAddr_eq, pwmPayload, le16]
    exact oneAccess_own (pseudocode_send cfg k v) h (memWrite_own (hpwm _))
  | writeMode b => exact oneAccess_own (pseudocode_writeMode cfg b) h (memWrite_own (.head _))
  | writePrescale b => exact oneAccess_own (pseudocode_writePrescale cfg b) h (memWrite_own (.head _))
  | writePwm n on off => exact oneAccess_own (pseudocode_writePwm cfg n on off) h (memWrite_own (.head _))
  | readMode => exact oneAccess_own (pseudocode_readMode cfg) h (memRead_own (.head _))
  | readPrescale => exact oneAccess_own (pseudocode_readPrescale cfg) h (memRead_own (.head _))
  | readPwm n => exact oneAccess_own (pseudocode_readPwm cfg n) h (memRead_own (.head _))
  | probe =>
    simp only [pseudocode, probeCode] at h
    split at h <;> cases h
    · exact .inl ⟨rfl, .inl rfl⟩
    · exact .inl ⟨rfl, .inr rfl⟩
  | start =>
    simp only [pseudocode, startCode] at h
    split at h <;> cases h
    exact bringUpRequest_own s.cfg s.savedMode _

/-! ### Transactions over a run -/

theorem txsOf_raise (e : ErrInfo) (s : State) : txsOf (s.raise e).history = txsOf s.history := by
  cases h : s.lockHeld <;> simp [h, txsOf]

theorem FirstStep.txsOf_eq {i : Instr} {s t : State} (h : FirstStep i s t) : txsOf t.history = txsOf s.history := by
  cases h with
  | locks => rfl
  | completes _ res => simp [txsOf]
  | raises e => exact txsOf_raise e s

/-- The internal step after an answer records no transaction of its own. -/
theorem AnswerStep.txsOf_eq {i : Instr} {got : Option (List Byte)} {s t : State} (h : AnswerStep i got s t) :
    txsOf t.history = txsOf s.history := by
  cases h with
  | goes | savesMode => rfl
  | waits => simp [txsOf]
  | completes x res => simp [txsOf]
  | raises x e => exact txsOf_raise e (s.setInit x)

/-- A move records the transaction it answers, if it answers one, and no other. -/
theorem deliver_txsOf (cfg : Cfg) (i : Instr) (m : EnvMove) (s : State) :
    txsOf ((pseudocode cfg i).deliver m s).history = txsOf s.history ∨
    ∃ r got, (pseudocode cfg i).request s = some r ∧
      txsOf ((pseudocode cfg i).deliver m s).history = txsOf s.history ++ [(r, got)] := by
  obtain h | ⟨-, h⟩ | ⟨-, h⟩ | ⟨-, -, -, h⟩ | ⟨a, r, -, hr, h⟩ | ⟨-, -, h⟩ := (pseudocode cfg i).deliver_cases m s <;>
    rw [h]
  · exact .inl rfl
  · exact .inl rfl
  · exact .inl rfl
  · obtain ⟨q, -, -, hg⟩ | ⟨-, hg⟩ := granted_step cfg i s.takeLock <;> rw [hg] <;> exact .inl (by simp [txsOf])
  · refine .inr ⟨r, r.outcome a, hr, ?_⟩
    rw [(answered_step hr (State.record_seq s _) _).txsOf_eq]
    simp [txsOf]
  · obtain ⟨-, hg⟩ | ⟨-, hg⟩ := settled_step cfg i (s.record .settleEnd) <;> rw [hg] <;> exact .inl (by simp [txsOf])

/-- Every transaction recorded between two states of a run is the command's own. -/
def OnlyOwnTxs (i : Instr) (s t : State) : Prop :=
  ∃ txs, txsOf t.history = txsOf s.history ++ txs ∧ ∀ x ∈ txs, OwnTx s.cfg.dev i x.1

theorem OnlyOwnTxs.of_eq {i : Instr} {s t : State} (h : txsOf t.history = txsOf s.history) : OnlyOwnTxs i s t :=
  ⟨[], by simp [h], nofun⟩

theorem OnlyOwnTxs.trans {i : Instr} {s t u : State} (h : OnlyOwnTxs i s u) (hcfg : u.cfg = s.cfg) (h' : OnlyOwnTxs i u t) :
    OnlyOwnTxs i s t := by
  obtain ⟨txs, heq, hown⟩ := h
  obtain ⟨txs', heq', hown'⟩ := h'
  refine ⟨txs ++ txs', by simp [heq', heq], fun x hx => ?_⟩
  exact (List.mem_append.mp hx).elim (hown x) fun hx' => hcfg ▸ hown' x hx'

theorem deliver_onlyOwnTxs (cfg : Cfg) (i : Instr) (m : EnvMove) (s : State) :
    OnlyOwnTxs i s ((pseudocode cfg i).deliver m s) := by
  obtain h | ⟨r, got, hr, h⟩ := deliver_txsOf cfg i m s
  · exact .of_eq h
  · exact ⟨[(r, got)], h, by simpa using request_own hr⟩

theorem run_onlyOwnTxs (cfg : Cfg) (i : Instr) (s : State) : OnlyOwnTxs i s ((pseudocode cfg i).run s) :=
  (Pseudocode.run_keeps_always _ (P := fun t => Kept (.ok i) s t ∧ OnlyOwnTxs i s t) s
    (fun _ => ⟨(first_step cfg i s).kept, .of_eq (first_step cfg i s).txsOf_eq⟩) ⟨.refl s, .of_eq rfl⟩
    (fun m u ⟨hk, h⟩ => ⟨hk.trans (deliver_kept cfg i m u), h.trans hk.cfg (deliver_onlyOwnTxs cfg i m u)⟩)
    (fun l _ ⟨hk, h⟩ => ⟨hk.setEnv l, h⟩)).2

/-- Settles O57: over a run only an answer records a transaction, the one the command waits for, and that is its own. -/
theorem commandsTouchOnlyTheirRegisters : Obligations.CommandsTouchOnlyTheirRegisters := by
  intro i s t es _ hexec hhist x hx
  rw [exec_eq_run] at hexec
  cases hexec
  obtain ⟨txs, heq, hown⟩ := run_onlyOwnTxs s.cfg i s
  rw [hhist, txsOf_append, List.append_cancel_left_eq] at heq
  exact hown x (heq ▸ hx)

end Sys2Proof.Machine
end

section
/-! CERTIFICATES. Served commands, answer by answer, and the read answered OK with a wrong number of bytes (92_eei_decisions.md D15,
20_memory.md R57). -/

namespace Sys2Proof.Machine

open Sys2Proof.Claims

/-! ### A run, move by move -/

namespace Pseudocode

/-- A served command comes to `Lock()`, and is granted it. -/
theorem run_served (p : Pseudocode) {i : Instr} {s : State} {moves rest : List EnvMove} (hs : s.Accepted i)
    (henv : s.Served moves rest) (hfirst : p.first s = s.goto .lock)
    (hbusy : (p.granted (s.goto .lock).takeLock).busy = s.busy) :
    p.run s = p.carryOn (moves ++ rest) (p.granted (s.goto .lock).takeLock) := by
  have hgrant : p.deliver .grant (s.goto .lock) = p.granted (s.goto .lock).takeLock := by
    simp [deliver, State.canGrant, henv.free]
  rw [run_atStart p hs.atStart, hfirst, State.goto_busy, if_pos hs.busy, henv.moves, List.cons_append,
    carryOn_cons p (m := .grant) nofun, hgrant, hbusy, if_pos hs.busy]

end Pseudocode

/-! ### The lock hold of a command that began without the lock -/

/-- The command that began in `s` holds the lock, at a point of it, after these events. -/
def State.underLock (s : State) (inside : List Event) (q : Seq) : State :=
  { s with lockHeld := true, seq := q, history := s.history ++ .lock :: inside }

theorem goto_takeLock (s : State) (p q : Seq) : ((s.goto p).takeLock).goto q = s.underLock [] q := rfl

theorem underLock_record (s : State) (inside : List Event) (q : Seq) (e : Event) :
    (s.underLock inside q).record e = s.underLock (inside ++ [e]) q := by
  simp [State.underLock, State.record]

/-- Error entry in the lock hold (R217). -/
theorem underLock_raise {s : State} (hl : s.lockHeld = false) (inside : List Event) (q : Seq) (e : ErrInfo)
    (rest : List EnvMove) : ((s.underLock inside q).raise e).setEnv rest =
      endedUnderLock s rest inside (errSt (opOf s.cmd) e.code e.step e.errReg e.errDev) s.result := by
  rw [State.raise_eq]
  simp [State.underLock, State.setEnv, endedUnderLock, errSt, hl]

section Answers

variable (p : Pseudocode) {s : State} {inside : List Event} {q : Seq} {r : BusRequest} {a : BusAnswer}

/-- The transaction the command waits for is answered, and recorded with what the block makes of the answer. -/
theorem carryOn_answer {got : Option (List Byte)} {t : State} (rest : List EnvMove)
    (hr : p.request (s.underLock inside q) = some r) (hgot : r.outcome a = got)
    (ht : p.answered got (s.underLock (inside ++ [.tx r got]) q) = t) :
    p.carryOn (.answer a :: rest) (s.underLock inside q) = if t.busy then p.carryOn rest t else t.setEnv rest := by
  have hdeliver : p.deliver (.answer a) (s.underLock inside q) = t := by
    simpa only [Pseudocode.deliver, Pseudocode.onAnswer, hr, hgot, underLock_record] using ht
  rw [p.carryOn_cons (m := .answer a) nofun, hdeliver]

/-- The command ends with an error where its transaction comes to FAIL. -/
theorem carryOn_fails (hl : s.lockHeld = false) (x : InitState) (e : ErrInfo) (rest : List EnvMove)
    (hr : p.request (s.underLock inside q) = some r) (hgot : r.outcome a = none)
    (he : p.answered none (s.underLock (inside ++ [.tx r none]) q) =
      ((s.setInit x).underLock (inside ++ [.tx r none]) q).raise e) :
    p.carryOn (.answer a :: rest) (s.underLock inside q) =
      { endedUnderLock s rest (inside ++ [.tx r none]) (errSt (opOf s.cmd) e.code e.step e.errReg e.errDev) s.result with
        initState := x } := by
  rw [carryOn_answer p rest hr hgot he, State.raise_busy, if_neg Bool.false_ne_true,
    underLock_raise (s := s.setInit x) hl]
  rfl

end Answers

/-! ### Reads answered with a wrong number of bytes -/

theorem outcome_memRead_none {dev : DevAddr} {a : Byte} {n : Nat} {bytes : List Byte} (h : bytes.length ≠ n) :
    (memRead dev a n).outcome (.ok bytes) = none := if_neg h

theorem outcome_busRead_none {dev : DevAddr} {n : Nat} {bytes : List Byte} (h : bytes.length ≠ n) :
    (busRead dev n).outcome (.ok bytes) = none := if_neg h

/-- A command with one transaction that comes to FAIL ends with BUS_IO and the register's address (R140, R143). -/
theorem oneAccess_fails {i : Instr} {op : BitVec 4} {s : State} {a : BusAnswer} {rest : List EnvMove}
    {first : State → State} {reg : Byte} {req : DevAddr → BusRequest} {result : List Byte → Word}
    (hp : pseudocode s.cfg i = .oneAccess first reg req result) (hfirst : first s = s.goto .lock) (hs : s.Accepted i)
    (henv : s.Served [.answer a] rest) (hgot : (req s.cfg.dev).outcome a = none) (hop : opOf (encode i) = op) :
    exec i s = .next (endedUnderLock s rest [.tx (req s.cfg.dev) none] (errSt op .busIo 0 reg s.cfg.dev) s.result) := by
  rw [exec_eq_run, hp, Pseudocode.oneAccess_served_fail hs.atStart hs.busy hfirst henv.free henv.moves hgot,
    goto_takeLock, underLock_record, underLock_raise hs.unlocked, hs.latched, hop]
  rfl

/-- START whose step 1 comes to FAIL (R177). -/
theorem start_fails_at_one {s : State} {a : BusAnswer} {rest : List EnvMove} (hs : s.Accepted .start)
    (hgate : startAllowed s.initState = true) (henv : s.Served [.answer a] rest)
    (hgot : (memRead s.cfg.dev modeAddr 1).outcome a = none) :
    exec .start s = .next { endedUnderLock s rest [.tx (memRead s.cfg.dev modeAddr 1) none]
      (errSt 0x6 .busIo 1 modeAddr s.cfg.dev) s.result with initState := .startFailed } := by
  have hop : opOf s.cmd = 0x6 := by rw [hs.latched]; decide
  rw [← hop]
  refine congrArg _ ((startCode.run_served hs henv (if_pos hgate) rfl).trans ?_)
  exact carryOn_fails startCode hs.unlocked (inside := []) (q := .bringUp .one) .startFailed
    (busIo 1 modeAddr s.cfg.dev) rest rfl hgot rfl

/-- PROBE whose both transactions come to FAIL (R163). -/
theorem probe_fails {s : State} {a b : BusAnswer} {rest : List EnvMove} (hs : s.Accepted .probe)
    (hgate : s.initState ≠ .notFound) (henv : s.Served [.answer a, .answer b] rest)
    (hwrite : (busWrite s.cfg.dev []).outcome a = none) (hread : (busRead s.cfg.dev 1).outcome b = none) :
    exec .probe s = .next { endedUnderLock s rest [.tx (busWrite s.cfg.dev []) none, .tx (busRead s.cfg.dev 1) none]
      (errSt 0x5 .deviceNotFound 0 0 s.cfg.dev) s.result with initState := .notFound } := by
  have hop : opOf s.cmd = 0x5 := by rw [hs.latched]; decide
  rw [← hop]
  refine congrArg _ ((probeCode.run_served hs henv (if_neg hgate) rfl).trans ?_)
  refine (carryOn_answer probeCode (inside := []) (q := .probeWrite) (t := s.underLock [.tx (busWrite s.cfg.dev []) none]
    .probeRead) (.answer b :: rest) rfl hwrite rfl).trans ?_
  rw [if_pos (show (s.underLock _ _).busy = true from hs.busy)]
  exact carryOn_fails probeCode hs.unlocked (inside := [.tx (busWrite s.cfg.dev []) none]) (q := .probeRead) .notFound
    (deviceNotFound s.cfg.dev) rest rfl hread rfl

/-- Settles O34: the outcome of such a read is FAIL, and the command does what it does at a FAIL. -/
theorem shortReadCountsAsFail : Obligations.ShortReadCountsAsFail := by
  refine fun s bytes rest => ⟨fun n hs henv hlen => ?_, fun hs henv hlen => ?_, fun hs henv hlen => ?_,
    fun hs hgate henv hlen => ?_, fun hs hgate henv hlen => ?_⟩
  · exact oneAccess_fails (pseudocode_readPwm s.cfg n) rfl hs henv (outcome_memRead_none hlen) (opOf_packCmd ..)
  · exact oneAccess_fails (pseudocode_readMode s.cfg) rfl hs henv (outcome_memRead_none hlen) (opOf_packCmd ..)
  · exact oneAccess_fails (pseudocode_readPrescale s.cfg) rfl hs henv (outcome_memRead_none hlen) (opOf_packCmd ..)
  · have hallowed : startAllowed s.initState = true := by
      obtain h | h | h := hgate <;> rw [h] <;> rfl
    exact start_fails_at_one hs hallowed henv (outcome_memRead_none hlen)
  · exact probe_fails hs hgate henv rfl (outcome_busRead_none hlen)

end Sys2Proof.Machine
end

section
/-! CERTIFICATES. The command word (30_encoding.md R71, R72, R85, R87): decode and encode agree both ways, the decoder takes what
fits a row of the opcode map, and the worked encodings. -/

namespace Sys2Proof

open Machine

/-! ### Operands of the DATA field (R75, R76) -/

@[simp] theorem extractLsb'_setWidth_byte (b : Byte) : (b.setWidth 32).extractLsb' 0 8 = b := by
  rw [BitVec.extractLsb'_setWidth_of_le (by decide), BitVec.extractLsb'_eq_self]

/-- A DATA field with only a byte in it has 0 above the byte, as a legal WRITE has (R75). -/
@[simp] theorem extractLsb'_high_setWidth_byte (b : Byte) : (b.setWidth 32).extractLsb' 8 24 = 0 := by
  revert b; decide

/-- A legal WRITE's DATA is its byte (R75). -/
theorem setWidth_byteOf {w : CmdWord} (h : (dataOf w).extractLsb' 8 24 = 0) : (byteOf w).setWidth 32 = dataOf w := by
  have := congrArg BitVec.toNat h
  apply BitVec.eq_of_toNat_eq
  simp [byteOf, Nat.shiftRight_eq_div_pow] at this ⊢
  omega

@[simp] theorem extractLsb'_pairWord_on (on off : Half) : (pairWord on off).extractLsb' 0 16 = on := by
  apply BitVec.eq_of_toNat_eq
  simp [pairWord_eq]
  omega

@[simp] theorem extractLsb'_pairWord_off (on off : Half) : (pairWord on off).extractLsb' 16 16 = off := by
  apply BitVec.eq_of_toNat_eq
  simp [pairWord_eq, Nat.shiftRight_eq_div_pow]
  omega

theorem pairWord_onOf_offOf (w : CmdWord) : pairWord (onOf w) (offOf w) = dataOf w := by
  apply BitVec.eq_of_toNat_eq
  simp [pairWord_eq, onOf, offOf, Nat.shiftRight_eq_div_pow]
  omega

/-! ### Decode of encode (R71, R72) -/

/-- Settles O1: each field of the packed word reads back, and a slot or channel in range is what its field holds. -/
theorem decodeInvertsEncode : Obligations.DecodeInvertsEncode := by
  intro i hi
  cases i with
  | convert s v | send s v =>
    have hs : s < 2 := of_decide_eq_true hi
    simp [encode, decode, withZeros, CmdField.isZero, Nat.mod_eq_of_lt hs]
  | writeMode b | writePrescale b => simp [encode, decode, withZeros, CmdField.isZero, byteOf]
  | writePwm n on off =>
    have hn : n < 16 := of_decide_eq_true hi
    simp [encode, decode, withZeros, CmdField.isZero, onOf, offOf, Nat.mod_eq_of_lt hn]
  | readPwm n =>
    have hn : n < 16 := of_decide_eq_true hi
    simp [encode, decode, withZeros, CmdField.isZero, Nat.mod_eq_of_lt hn]
  | readMode | readPrescale | probe | start => decide

/-! ### Encode of decode (R71, R72) -/

/-- A word without reserved bits is packed from what its fields are. -/
theorem packCmd_eq {w : CmdWord} {op : BitVec 4} {reg : BitVec 2} {idx : BitVec 4} {slot : BitVec 1} {data : Word}
    (hrsv : rsvOf w = 0) (hop : (opOf w).toNat = op.toNat) (hreg : regOf w = reg) (hidx : idxOf w = idx)
    (hslot : slotOf w = slot) (hdata : dataOf w = data) : packCmd op reg idx slot data = w := by
  rw [← BitVec.eq_of_toNat_eq hop, ← hreg, ← hidx, ← hslot, ← hdata, packCmd_fields w hrsv]

theorem slotOk_slotOf (w : CmdWord) : slotOk (slotOf w).toNat = true := decide_eq_true (slotOf w).isLt

theorem channelOk_idxOf (w : CmdWord) : channelOk (idxOf w).toNat = true := decide_eq_true (idxOf w).isLt

/-- Settles O2: the row taken gives every field of the word, its operand or what it must be, and a word is its fields. -/
theorem encodeInvertsDecode : Obligations.EncodeInvertsDecode := by
  intro w i h
  unfold decode at h
  split at h
  case h_6 | h_10 | h_13 => simp at h
  all_goals
    obtain ⟨rfl, hz⟩ := withZeros_eq_ok.mp h
    simp only [List.forall_mem_cons, CmdField.isZero, decide_eq_true_eq] at hz
  case h_1 hop | h_2 hop =>
    obtain ⟨hreg, hidx, hrsv, -⟩ := hz
    exact ⟨slotOk_slotOf w, packCmd_eq hrsv hop hreg hidx (by simp) rfl⟩
  case h_3 hop hreg | h_4 hop hreg =>
    obtain ⟨hidx, hslot, hrsv, hhigh, -⟩ := hz
    exact ⟨rfl, packCmd_eq hrsv hop (BitVec.eq_of_toNat_eq hreg) hidx hslot
      (setWidth_byteOf hhigh).symm⟩
  case h_5 hop hreg =>
    obtain ⟨hslot, hrsv, -⟩ := hz
    exact ⟨channelOk_idxOf w, packCmd_eq hrsv hop (BitVec.eq_of_toNat_eq hreg) (by simp) hslot
      (pairWord_onOf_offOf w).symm⟩
  case h_7 hop hreg | h_8 hop hreg =>
    obtain ⟨hidx, hslot, hrsv, hdata, -⟩ := hz
    exact ⟨rfl, packCmd_eq hrsv hop (BitVec.eq_of_toNat_eq hreg) hidx hslot hdata⟩
  case h_9 hop hreg =>
    obtain ⟨hslot, hrsv, hdata, -⟩ := hz
    exact ⟨channelOk_idxOf w, packCmd_eq hrsv hop (BitVec.eq_of_toNat_eq hreg) (by simp) hslot hdata⟩
  case h_11 hop | h_12 hop =>
    obtain ⟨hreg, hidx, hslot, hrsv, hdata, -⟩ := hz
    exact ⟨rfl, packCmd_eq hrsv hop hreg hidx hslot hdata⟩

/-! ### The opcode map (R72) -/

/-- The encoded command matches its row, whatever the command. -/
theorem row_fits_encode (i : Instr) : i.row.fits (encode i) = true := by
  cases i with
  | convert s v => exact Laws.EncodedRow.convert s v
  | send s v => exact Laws.EncodedRow.send s v
  | writeMode b => exact Laws.EncodedRow.writeMode b
  | writePrescale b => exact Laws.EncodedRow.writePrescale b
  | writePwm n on off => exact Laws.EncodedRow.writePwm n on off
  | readMode => exact Laws.EncodedRow.readMode
  | readPrescale => exact Laws.EncodedRow.readPrescale
  | readPwm n => exact Laws.EncodedRow.readPwm n
  | probe => exact Laws.EncodedRow.probe
  | start => exact Laws.EncodedRow.start

theorem row_mem_opcodeTable (i : Instr) : i.row ∈ opcodeTable := by
  cases i <;> simp [Instr.row, opcodeTable]

/-- No word has two rows: where both masks look, the patterns of two rows differ. -/
theorem fits_unique {r r' : OpcodeRow} {w : CmdWord} (hr : r ∈ opcodeTable) (hr' : r' ∈ opcodeTable)
    (h : r.fits w = true) (h' : r'.fits w = true) : r = r' := by
  have hdiffer : ∀ r ∈ opcodeTable, ∀ r' ∈ opcodeTable, r.pattern &&& r'.mask = r'.pattern &&& r.mask → r = r' := by
    decide
  refine hdiffer r hr r' hr' ?_
  rw [← of_decide_eq_true h, ← of_decide_eq_true h', BitVec.and_assoc, BitVec.and_assoc, BitVec.and_comm r.mask]

/-- A row's mask covers a field: the words that fit have the pattern's value there. -/
theorem extractLsb'_eq_of_fits {r : OpcodeRow} {w : CmdWord} (h : r.fits w = true) {a n : Nat}
    (hmask : r.mask.extractLsb' a n = BitVec.allOnes n) : w.extractLsb' a n = r.pattern.extractLsb' a n := by
  rw [← of_decide_eq_true h, BitVec.extractLsb'_and, hmask, BitVec.and_allOnes]

/-- Where a field stands in the command word (R71). -/
def CmdField.lsb : CmdField → Nat
  | .reg => 4
  | .idx => 6
  | .slot => 10
  | .rsv => 11
  | .data => 32
  | .dataHigh => 40

/-- How many bits a field has (R71). -/
def CmdField.width : CmdField → Nat
  | .reg => 2
  | .idx => 4
  | .slot => 1
  | .rsv => 21
  | .data => 32
  | .dataHigh => 24

/-- "Must be 0" speaks of the bits at the field's place. -/
theorem CmdField.isZero_iff (w : CmdWord) (f : CmdField) : f.isZero w = true ↔ w.extractLsb' f.lsb f.width = 0 := by
  cases f with
  | reg | idx | slot | rsv | data => exact decide_eq_true_iff
  | dataHigh =>
    have hplace : (dataOf w).extractLsb' 8 24 = w.extractLsb' 40 24 := by
      ext k hk
      have hlt : k + 8 < 32 := by omega
      simp [dataOf, Nat.add_comm, Nat.add_assoc, hlt]
    rw [isZero, decide_eq_true_iff, hplace]
    rfl

/-- The checks of "must be 0" pass for a word of a row that asks for them (R72). -/
theorem withZeros_of_fits {r : OpcodeRow} {w : CmdWord} (h : r.fits w = true) (i : Instr) {fs : List CmdField}
    (hfs : ∀ f ∈ fs, r.mask.extractLsb' f.lsb f.width = BitVec.allOnes f.width ∧ f.isZero r.pattern = true) :
    withZeros w i fs = .ok i := by
  refine withZeros_eq_ok.mpr ⟨rfl, fun f hf => ?_⟩
  obtain ⟨hmask, hzero⟩ := hfs f hf
  rw [f.isZero_iff] at hzero ⊢
  rw [extractLsb'_eq_of_fits h hmask, hzero]

/-- A word that fits a row of the table decodes: the row fixes OP and REG, and every field that must be 0 for them. -/
theorem decode_of_fits {r : OpcodeRow} {w : CmdWord} (hr : r ∈ opcodeTable) (h : r.fits w = true) :
    ∃ i, decode w = .ok i := by
  have hmasks : ∀ r ∈ opcodeTable, opOf r.mask = BitVec.allOnes 4 ∧ regOf r.mask = BitVec.allOnes 2 := by decide
  obtain ⟨hopmask, hregmask⟩ := hmasks r hr
  have hop : opOf w = opOf r.pattern := extractLsb'_eq_of_fits h hopmask
  have hreg : regOf w = regOf r.pattern := extractLsb'_eq_of_fits h hregmask
  unfold decode
  rw [hop, hreg]
  simp only [opcodeTable, List.mem_cons, List.not_mem_nil, or_false] at hr
  rcases hr with rfl | rfl | rfl | rfl | rfl | rfl | rfl | rfl | rfl | rfl
  all_goals exact ⟨_, withZeros_of_fits h _ (by decide)⟩

/-- A row that fits is the only one. -/
theorem filter_fits_eq {r : OpcodeRow} {w : CmdWord} (hr : r ∈ opcodeTable) (h : r.fits w = true) :
    opcodeTable.filter (fun r => r.fits w) = [r] := by
  have hiff : ∀ r' ∈ opcodeTable, r'.fits w = decide (r' = r) := fun r' hr' => by
    rw [Bool.eq_iff_iff, decide_eq_true_iff]
    exact ⟨fun h' => fits_unique hr' hr h' h, fun h' => h' ▸ h⟩
  rw [List.filter_congr hiff, List.filter_eq, List.count_eq_one_of_mem (by decide) hr, List.replicate_one]

theorem fits_of_decode {w : CmdWord} {i : Instr} (h : decode w = .ok i) : i.row.fits w = true :=
  (encodeInvertsDecode w i h).2 ▸ row_fits_encode i

/-- Settles O3: two rows differ where both their masks look, a row's mask covers what its command must have, and a decoded
word fits its command's row. -/
theorem legalWordsMatchExactlyOneRow : Obligations.LegalWordsMatchExactlyOneRow := by
  intro w
  have hlegal : ∀ i, decode w = .ok i → opcodeTable.filter (fun r => r.fits w) = [i.row] := fun i hi =>
    filter_fits_eq (row_mem_opcodeTable i) (fits_of_decode hi)
  by_cases hd : ∃ i, decode w = .ok i
  · obtain ⟨i, hi⟩ := hd
    have hone : (opcodeTable.filter (fun r => r.fits w)).length = 1 := by rw [hlegal i hi, List.length_singleton]
    exact ⟨hone.le, ⟨fun _ => hone, fun _ => ⟨i, hi⟩⟩, hlegal⟩
  · have hnone : opcodeTable.filter (fun r => r.fits w) = [] :=
      List.filter_eq_nil_iff.mpr fun r hr hfits => hd (decode_of_fits hr hfits)
    exact ⟨by simp [hnone], by simp [hnone, hd], hlegal⟩

/-! ### The worked encodings (R87) -/

/-- A line that assembles to a well-formed command assembles to the command's word, and that decodes to it. -/
theorem assembles_and_decodes {text : List Char} {i : Instr} {w : CmdWord} (htext : assembleLine text = some (.command i))
    (hi : i.wellFormed = true) (hw : encode i = w) :
    (assembleLine text).map AsmLine.words = some [w] ∧ decode w = .ok i :=
  ⟨by simp [htext, AsmLine.words, hw], hw ▸ decodeInvertsEncode i hi⟩

/-- Settles O4: each line is that of a well-formed command. -/
theorem workedEncodingsAssembleAndDecode : Obligations.WorkedEncodingsAssembleAndDecode :=
  ⟨assembles_and_decodes (by decide) rfl (by decide), assembles_and_decodes (by decide) rfl (by decide),
   assembles_and_decodes (by decide) rfl (by decide), assembles_and_decodes (by decide) rfl (by decide),
   assembles_and_decodes (by decide) rfl (by decide), assembles_and_decodes (by decide) rfl (by decide),
   assembles_and_decodes (by decide) rfl (by decide), assembles_and_decodes (by decide) rfl (by decide),
   assembles_and_decodes (by decide) rfl (by decide), assembles_and_decodes (by decide) rfl (by decide),
   assembles_and_decodes (by decide) rfl (by decide)⟩

end Sys2Proof
end

section
/-! CERTIFICATES. The step (30_encoding.md R83, R84): acceptance latches a word, and the next step runs it. -/

namespace Sys2Proof.Machine

/-- Settles O5: the latched word decodes, so the step is at the dispatch. -/
theorem stepRunsTheLatchedCommand : Obligations.StepRunsTheLatchedCommand := by
  intro s i hb hi
  simp only [step, hb, hi, if_true]

theorem decodeTableWord_eq_some {nbits w : Nat} {i : Instr} (h : decodeTableWord nbits w = some i) :
    decode (tableWord nbits w) = .ok i := by
  unfold decodeTableWord at h
  split at h
  · rename_i j hj
    rw [hj, Option.some.inj h]
  · cases h

/-- Settles O6: the word placed is latched with BUSY at 1, so the step runs what it decodes to. -/
theorem fetchedWordRunsNext : Obligations.FetchedWordRunsNext := by
  intro s nbits w i h
  exact stepRunsTheLatchedCommand (s.withFetchWord nbits w) i rfl (decodeTableWord_eq_some h)

/-- Settles O7: acceptance is the idle step of a presented word, and a busy block leaves the host's moves. -/
theorem acceptanceLatchesOneCommand : Obligations.AcceptanceLatchesOneCommand := by
  refine ⟨fun s => rfl, fun s w rest hb hq => ?_, fun s t hb h => (runningCommandIsLatched s t hb h).2⟩
  have hidle : s.idleStep = (s.setHost rest).accept w := by simp only [State.idleStep, hq]
  simp only [step, hb, hidle, Bool.false_eq_true, if_false]
  rfl

end Sys2Proof.Machine
end

section
/-! CERTIFICATES. The derived constants (40_converter.md R101–R104; 00_scope.md R7): the exact floors, and the bounds a valid
configuration gives. -/

namespace Sys2Proof

/-! ### Ticks (R101, R103) -/

/-- The integer division of `ticks` is the floor of the exact quotient (R101, D29). -/
theorem ticks_eq_floor (p f : Nat) : (ticks p f : Int) = ⌊(p : ℚ) * (f : ℚ) * 65535 / 1000000⌋ := by
  have h := Rat.floor_natCast_div_natCast (p * f * 65535) 1000000
  push_cast at h
  rw [h]
  simp [ticks]

theorem ticks_mono (f : Nat) {p p' : Nat} (h : p ≤ p') : ticks p f ≤ ticks p' f :=
  Nat.div_le_div_right (Nat.mul_le_mul_right _ (Nat.mul_le_mul_right _ h))

/-- A tick count fits 16 bits exactly where its pulse is no longer than 1.000015 periods (R103). -/
theorem ticks_le_iff (p f : Nat) : ticks p f ≤ 65535 ↔ p * f ≤ 1000015 := by
  unfold ticks
  omega

/-! ### A valid slot (R7, R102, R103) -/

namespace SlotParams

variable {c : SlotParams}

theorem valid_iff (c : SlotParams) : c.valid = true ↔
    1 ≤ c.freqHz ∧ c.minUs < c.maxUs ∧ c.minTicks ≤ c.maxTicks ∧ c.maxTicks ≤ 65535 := by
  simp [valid, and_assoc]

theorem maxTicks_le_of_valid (h : c.valid = true) : c.maxTicks ≤ 65535 := by
  obtain ⟨-, -, -, hmax⟩ := c.valid_iff.mp h
  exact hmax

/-- SCALE is a difference without truncation (R102, R108). -/
theorem maxTicks_eq_add_scale (h : c.valid = true) : c.maxTicks = c.minTicks + c.scale := by
  obtain ⟨-, -, hle, -⟩ := c.valid_iff.mp h
  exact (Nat.add_sub_cancel' hle).symm

end SlotParams

/-- Settles O22: both floors are one integer division. -/
theorem ticksAreExactFloors : Obligations.TicksAreExactFloors :=
  ⟨ticks_eq_floor, fun _ => ⟨rfl, rfl⟩, rfl, rfl⟩

/-- Settles O23: ticks is monotone, and its bound is the one on the pulse width; SCALE is 0 where a range of 1 us at 1 Hz is
worth less than a tick. -/
theorem converterConstantsAreBounded : Obligations.ConverterConstantsAreBounded := by
  refine ⟨fun p p' f => ticks_mono f, fun c h => ticks_mono c.freqHz h.le, fun c => ticks_le_iff c.maxUs c.freqHz,
    fun c h => ?_, fun c h => ?_, ⟨⟨0, 1, 1⟩, by decide, by decide⟩⟩
  · have hsum := SlotParams.maxTicks_eq_add_scale h
    have hmax := SlotParams.maxTicks_le_of_valid h
    omega
  · refine Bool.eq_false_iff.mpr fun hvalid => h ?_
    obtain ⟨-, -, hrange⟩ := c.valid_iff.mp hvalid
    exact hrange

/-! ### The prescale (R104) -/

namespace Params

/-- The integer form of R104 is the quotient rounded to nearest, halves up: both fractions are one. -/
theorem prescaleVal_eq_floor {c : Params} (h : 1 ≤ c.pwmFreqHz) :
    (c.prescaleVal : Int) = ⌊(c.clockHz : ℚ) / 4096 / (c.pwmFreqHz : ℚ) + 1 / 2⌋ := by
  have hf : (c.pwmFreqHz : ℚ) ≠ 0 := by exact_mod_cast (Nat.one_le_iff_ne_zero.mp h)
  have hquot : (c.clockHz : ℚ) / 4096 / (c.pwmFreqHz : ℚ) + 1 / 2 =
      ((2 * c.clockHz + 4096 * c.pwmFreqHz : Nat) : ℚ) / ((8192 * c.pwmFreqHz : Nat) : ℚ) := by
    push_cast
    field_simp
    ring
  rw [hquot, Rat.floor_natCast_div_natCast]
  exact Int.natCast_ediv _ _

theorem prescaleVal_le_of_valid {c : Params} (h : c.valid = true) : c.prescaleVal ≤ 255 := by
  simp only [valid, Bool.and_eq_true, decide_eq_true_eq] at h
  obtain ⟨⟨⟨-, hfits⟩, -⟩, -⟩ := h
  exact hfits

end Params

/-- Settles O24: a valid configuration's value fits the byte, so the byte is the value. -/
theorem prescaleRoundsToNearest : Obligations.PrescaleRoundsToNearest := by
  refine ⟨fun c => Params.prescaleVal_eq_floor, fun c => rfl, fun c hf hclk => ?_, fun c h => ?_, fun c => ?_⟩
  · rw [Params.prescaleVal, hf, hclk]
  · exact Bool.eq_false_iff.mpr fun hvalid => absurd (Params.prescaleVal_le_of_valid hvalid) (Nat.not_le.mpr h)
  · have hfits := Params.prescaleVal_le_of_valid c.valid
    rw [Cfg.prescaleByte, BitVec.toNat_ofNat, Nat.mod_eq_of_lt (by omega)]

end Sys2Proof
end

section
/-! CERTIFICATES. CONVERT (40_converter.md R105–R112): the tick count, its bounds, its datapath, and the command's end. -/

namespace Sys2Proof.Machine

/-! ### The tick count (R105, R107–R110) -/

section Cycle

variable (c : SlotParams) (v : Word)

/-- The division of `cycleOf` is the floor of the exact quotient (R105, R110). -/
theorem cycleOf_eq_floor : cycleOf c v = c.minTicks + ⌊(v.toInt : ℚ) * (c.scale : ℚ) / 65536⌋ := by
  have h := Rat.floor_intCast_div_natCast (v.toInt * c.scale) 65536
  push_cast at h
  rw [h]
  rfl

/-- The count is `n` or more above MIN_TICKS exactly where the product is worth `n` ticks: each bound on the count is one on the
product. -/
theorem add_le_cycleOf_iff (n : Int) : c.minTicks + n ≤ cycleOf c v ↔ n * 65536 ≤ v.toInt * c.scale := by
  rw [cycleOf, add_le_add_iff_left]
  exact Int.le_ediv_iff_mul_le (by decide)

theorem cycleOf_lt_add_iff (n : Int) : cycleOf c v < c.minTicks + n ↔ v.toInt * c.scale < n * 65536 := by
  rw [← not_le, add_le_cycleOf_iff, not_le]

theorem cycleOf_mono {v w : Word} (h : v.toInt ≤ w.toInt) : cycleOf c v ≤ cycleOf c w :=
  Int.add_le_add_left (Int.ediv_le_ediv (by decide) (Int.mul_le_mul_of_nonneg_right h (Int.natCast_nonneg _))) _

/-- A value of `k` whole units is worth `k` times SCALE, exactly (R108). -/
theorem cycleOf_of_toInt {k : Int} (h : v.toInt = k * 65536) : cycleOf c v = c.minTicks + k * c.scale := by
  rw [cycleOf, normalized, h, mul_right_comm, Int.mul_ediv_cancel _ (by decide)]

theorem product_bounds :
    -2147483648 * (c.scale : Int) ≤ v.toInt * c.scale ∧ v.toInt * c.scale ≤ 2147483647 * (c.scale : Int) :=
  ⟨Int.mul_le_mul_of_nonneg_right v.le_toInt (Int.natCast_nonneg _),
    Int.mul_le_mul_of_nonneg_right v.toInt_le (Int.natCast_nonneg _)⟩

variable {c}

theorem cycleOf_bounds (hc : c.valid = true) : -2147450880 ≤ cycleOf c v ∧ cycleOf c v ≤ 2147450879 := by
  obtain ⟨hlow, hhigh⟩ := product_bounds c v
  have hsum := SlotParams.maxTicks_eq_add_scale hc
  have hmax := SlotParams.maxTicks_le_of_valid hc
  have hge := (add_le_cycleOf_iff c v (-2147450880)).mpr (by omega)
  have hlt := (cycleOf_lt_add_iff c v (2147450880 - c.minTicks)).mpr (by omega)
  omega

/-- RESULT reads back as the count (R107). -/
theorem u32_cycleOf_toInt (hc : c.valid = true) : (u32 (cycleOf c v)).toInt = cycleOf c v := by
  obtain ⟨hlow, hhigh⟩ := cycleOf_bounds v hc
  exact BitVec.toInt_ofInt_eq_self (by decide) (by omega) (by omega)

theorem cycleOf_zero (c : SlotParams) : cycleOf c 0x00000000#32 = c.minTicks := by
  simpa using cycleOf_of_toInt c 0x00000000#32 (k := 0) (by decide)

theorem cycleOf_one (hc : c.valid = true) : cycleOf c 0x00010000#32 = c.maxTicks := by
  rw [cycleOf_of_toInt c 0x00010000#32 (k := 1) (by decide), SlotParams.maxTicks_eq_add_scale hc]
  simp

/-- A value in [0, 1] gives a tick count of the slot's range, for the count is monotone and takes MIN_TICKS and MAX_TICKS at the
ends. -/
theorem cycleOf_mem_range (hc : c.valid = true) (h0 : 0 ≤ v.toInt) (h1 : v.toInt ≤ 65536) :
    (c.minTicks : Int) ≤ cycleOf c v ∧ cycleOf c v ≤ c.maxTicks := by
  rw [← cycleOf_zero c, ← cycleOf_one hc]
  exact ⟨cycleOf_mono c h0, cycleOf_mono c h1⟩

end Cycle

/-- Truncation toward zero is floor but for a negative number with a remainder (R110). -/
theorem tdiv_ne_floor_iff (p : Int) : p.tdiv 65536 ≠ ⌊(p : ℚ) / 65536⌋ ↔ p < 0 ∧ ¬(65536 ∣ p) := by
  have hfloor : ⌊(p : ℚ) / 65536⌋ = p / 65536 := by exact_mod_cast Rat.floor_intCast_div_natCast p 65536
  rw [hfloor, Int.tdiv_eq_ediv]
  by_cases h : 0 ≤ p ∨ 65536 ∣ p
  · rw [if_pos h]
    omega
  · rw [if_neg h, show Int.sign 65536 = 1 from rfl]
    omega

/-- Settles O16: the division is floor; on 2457/4915 the product of -2^-16 is -4915, whose floor is -1. -/
theorem cycleRoundsTowardMinusInfinity : Obligations.CycleRoundsTowardMinusInfinity := by
  refine ⟨cycleOf_eq_floor, fun c hmin hscale => ?_, tdiv_ne_floor_iff⟩
  rw [cycleOf, hmin, hscale]
  decide

/-- Settles O17: the bounds are those of the product; the slot of R101's example leaves 0..65535 at both ends of V. -/
theorem cycleFitsThirtyTwoBits : Obligations.CycleFitsThirtyTwoBits := by
  refine ⟨fun c v hc => ?_, ⟨⟨750, 2250, 50⟩, 0x80000000#32, by decide, by decide⟩,
    ⟨⟨750, 2250, 50⟩, 0x7FFFFFFF#32, by decide, by decide⟩⟩
  obtain ⟨hlow, hhigh⟩ := cycleOf_bounds v hc
  exact ⟨hlow, hhigh, u32_cycleOf_toInt v hc, cycleOf_mem_range v hc⟩

/-- Settles O18: 0.0 and 1.0 are whole units. -/
theorem cycleAtTheEndsOfTheRange : Obligations.CycleAtTheEndsOfTheRange := by
  refine fun c hc => ⟨cycleOf_zero c, ?_, cycleOf_one hc⟩
  rw [cycleOf_one hc, SlotParams.maxTicks_eq_add_scale hc, Nat.cast_add]

/-- Settles O19: the product is monotone in V, and is 0 where SCALE is 0. -/
theorem cycleIsMonotone : Obligations.CycleIsMonotone := by
  refine ⟨fun c _ _ => cycleOf_mono c, fun c v hscale => ?_⟩
  simp [cycleOf, hscale]

/-- Settles O21: each bound on the count is one on the product. Below MIN_TICKS it is the sign, and MAX_TICKS is SCALE above. -/
theorem cycleIsNotClamped : Obligations.CycleIsNotClamped := by
  intro c v hc
  rw [SlotParams.maxTicks_eq_add_scale hc, Nat.cast_add]
  refine ⟨?_, ?_, ?_⟩
  · have h := cycleOf_lt_add_iff c v 0
    rw [add_zero, zero_mul, mul_neg_iff] at h
    rw [h]
    omega
  · rw [add_le_cycleOf_iff, mul_comm]
    obtain h0 | hpos : c.scale = 0 ∨ 0 < (c.scale : Int) := by omega
    · simp [h0]
    · rw [mul_le_mul_iff_left₀ hpos]
      omega
  · have h := add_le_cycleOf_iff c v (c.scale + 1)
    rw [sub_mul]
    omega

/-! ### The datapath (R112) -/

/-- The upper 32 bits of a signed 48-bit number are its floor over 65536. -/
theorem toInt_extractLsb'_upper (x : BitVec 48) : (x.extractLsb' 16 32).toInt = x.toInt / 65536 := by
  have hx := x.isLt
  rw [BitVec.toInt_eq_toNat_cond, BitVec.toInt_eq_toNat_cond, BitVec.extractLsb'_toNat, Nat.shiftRight_eq_div_pow]
  split <;> split <;> omega

/-- SCALE is below 2^16 and V within 2^31 of 0, so their product needs 48 bits. -/
theorem toInt_product {c : SlotParams} (hc : c.valid = true) (v : Word) :
    (v.signExtend 48 * BitVec.ofNat 48 c.scale).toInt = v.toInt * c.scale := by
  have hsum := SlotParams.maxTicks_eq_add_scale hc
  have hmax := SlotParams.maxTicks_le_of_valid hc
  obtain ⟨hlow, hhigh⟩ := product_bounds c v
  have hscale : (BitVec.ofNat 48 c.scale).toInt = c.scale := by
    rw [← BitVec.ofInt_natCast]
    exact BitVec.toInt_ofInt_eq_self (by decide) (by omega) (by omega)
  rw [BitVec.toInt_mul, BitVec.toInt_signExtend_of_le (by decide), hscale]
  exact Int.bmod_eq_of_le_mul_two (by omega) (by omega)

/-- Settles O20: the product's upper bits are the floor, so the adder's sum is the pattern of the count, which 32 bits hold. -/
theorem datapathComputesCycle : Obligations.DatapathComputesCycle := by
  intro c v hc
  have hprod := toInt_product hc v
  have hsum : ((v.signExtend 48 * BitVec.ofNat 48 c.scale).extractLsb' 16 32).toInt + (c.minTicks : Int) = cycleOf c v := by
    rw [toInt_extractLsb'_upper, hprod, add_comm]
    rfl
  have hadder : (v.signExtend 48 * BitVec.ofNat 48 c.scale).extractLsb' 16 32 + BitVec.ofNat 32 c.minTicks =
      u32 (cycleOf c v) := by
    rw [← hsum, u32, BitVec.ofInt_add, BitVec.ofInt_toInt, BitVec.ofInt_natCast]
  exact ⟨hprod, hadder, hsum, hadder ▸ u32_cycleOf_toInt v hc⟩

/-! ### The command (R105, R111) -/

/-- CONVERT is one internal step, its completion (R105). -/
theorem execConvert_eq {s : State} (hseq : s.seq = .start) (k : Nat) (v : Word) :
    exec (.convert k v) s = .next (s.complete (u32 (cycleOf (s.cfg.slot k) v))) := by
  rw [exec_eq_run, Pseudocode.run_atStart _ hseq]
  rfl

/-- Settles O15: the completion of the one internal step, with OP 1 latched. -/
theorem convertCompletesWithCycle : Obligations.ConvertCompletesWithCycle := by
  intro s k v hs
  have hop : opOf s.cmd = 0x1 := by rw [hs.latched]; exact opOf_packCmd ..
  rw [execConvert_eq hs.atStart, cycleOf_eq_floor, State.complete, okStatus, hop]
  rfl

/-- Settles O55: completion writes STATUS, RESULT, BUSY and SEQ, and its event is no transaction. -/
theorem frameOfConvert : Obligations.FrameOfConvert := by
  intro s t k v hs hexec
  rw [execConvert_eq hs.atStart] at hexec
  cases hexec
  refine ⟨rfl, rfl, rfl, rfl, rfl, rfl, rfl, rfl, ?_⟩
  simp [txsOf]

end Sys2Proof.Machine
end

section
/-! SUPPORT. SEND, WRITE and READ side by side (41_channel_send.md R126, R128; 42_register_access.md R149): two runs in states that
differ only in what these commands do not look at. -/

namespace Sys2Proof.Machine

open Sys2Proof.Claims

/-! ### Relations between two runs -/

/-- Two related states agree in what a command with one transaction looks at, and each primitive of R10 and each move of OTHER, done
to both, leaves them related. -/
structure KeptByPrimitives (R : State → State → Prop) : Prop where
  looksAt       : ∀ {s s'}, R s s' → s'.cfg = s.cfg ∧ s'.busy = s.busy ∧ s'.seq = s.seq ∧ s'.otherHolds = s.otherHolds
  goto          : ∀ {s s'} (q : Seq), R s s' → R (s.goto q) (s'.goto q)
  record        : ∀ {s s'} (e : Event), R s s' → R (s.record e) (s'.record e)
  takeLock      : ∀ {s s'}, R s s' → R s.takeLock s'.takeLock
  unlock        : ∀ {s s'}, R s s' → R s.unlock s'.unlock
  complete      : ∀ {s s'} (res : Word), R s s' → R (s.complete res) (s'.complete res)
  raise         : ∀ {s s'} (e : ErrInfo), R s s' → R (s.raise e) (s'.raise e)
  otherTakes    : ∀ {s s'}, R s s' → R s.otherTakes s'.otherTakes
  otherReleases : ∀ {s s'}, R s s' → R s.otherReleases s'.otherReleases
  setEnv        : ∀ {s s'} (l : List EnvMove), R s s' → R (s.setEnv l) (s'.setEnv l)

namespace KeptByPrimitives

variable {R : State → State → Prop} {s s' : State} (hR : KeptByPrimitives R)

section OneAccess

variable (first : State → State) (reg : Byte) (req : DevAddr → BusRequest) (result : List Byte → Word)

include hR

theorem deliver (m : EnvMove) (h : R s s') :
    R ((Pseudocode.oneAccess first reg req result).deliver m s)
      ((Pseudocode.oneAccess first reg req result).deliver m s') := by
  obtain ⟨hcfg, -, hseq, hother⟩ := hR.looksAt h
  cases m with
  | otherLock => exact hR.otherTakes h
  | otherUnlock => exact hR.otherReleases h
  | delay => exact h
  | grant =>
    have hcan : s'.canGrant = s.canGrant := by simp only [State.canGrant, hseq, hother]
    simp only [Pseudocode.deliver, hcan]
    split
    · exact hR.goto .access (hR.takeLock h)
    · exact h
  | answer a =>
    simp only [Pseudocode.deliver, Pseudocode.onAnswer, Pseudocode.oneAccess, hseq, hcfg, State.record_cfg]
    by_cases haccess : s.seq = .access <;> simp only [haccess, ↓reduceIte]
    · cases (req s.cfg.dev).outcome a with
      | none => exact hR.raise _ (hR.record _ h)
      | some bytes => exact hR.complete _ (hR.unlock (hR.record _ h))
    · exact h
  | settle =>
    simp only [Pseudocode.deliver, hseq]
    split
    · exact hR.record .settleEnd h
    · exact h

theorem carryOn (moves : List EnvMove) (h : R s s') :
    R ((Pseudocode.oneAccess first reg req result).carryOn moves s)
      ((Pseudocode.oneAccess first reg req result).carryOn moves s') := by
  induction moves generalizing s s' with
  | nil => exact hR.setEnv [] h
  | cons m rest ih =>
    by_cases hm : m = .delay
    · subst hm; exact hR.setEnv rest h
    · have hd := hR.deliver first reg req result m h
      obtain ⟨-, hbusy, -⟩ := hR.looksAt hd
      rw [Pseudocode.carryOn_cons _ hm, Pseudocode.carryOn_cons _ hm, hbusy]
      split
      · exact ih hd
      · exact hR.setEnv rest hd

end OneAccess

include hR in
/-- Runs of the same SEND, WRITE or READ over the same moves, begun in related states, end in related states. -/
theorem run (cfg : Cfg) {i : Instr} (hi : oneTransaction i) (henv : s'.env = s.env)
    (h : R s s') : R ((pseudocode cfg i).run s) ((pseudocode cfg i).run s') := by
  obtain ⟨first, reg, req, result, hp, hfirst⟩ := pseudocode_oneAccess hi cfg
  rw [hp]
  obtain ⟨-, -, hseq, -⟩ := hR.looksAt h
  by_cases hs : s.seq = .start
  · have hf : R (first s) (first s') := by
      obtain rfl | ⟨e, -, rfl⟩ := hfirst
      · exact hR.goto .lock h
      · exact hR.raise e h
    obtain ⟨-, hbusy, -⟩ := hR.looksAt hf
    have hfirst_eq (u : State) : (Pseudocode.oneAccess first reg req result).first u = first u := rfl
    rw [Pseudocode.run_atStart _ hs, Pseudocode.run_atStart _ (hseq.trans hs), henv, hfirst_eq, hfirst_eq, hbusy]
    split
    · exact hR.carryOn first reg req result s.env hf
    · exact hf
  · rw [Pseudocode.run_waiting _ hs, Pseudocode.run_waiting _ (hseq ▸ hs), henv]
    exact hR.carryOn first reg req result s.env h

end KeptByPrimitives

/-! ### INIT_STATE -/

theorem raise_setInit (x : InitState) (e : ErrInfo) (s : State) : (s.setInit x).raise e = (s.raise e).setInit x := by
  simp only [State.raise_eq]
  rfl

theorem setInit_keptByPrimitives (x : InitState) : KeptByPrimitives fun s s' => s' = s.setInit x where
  looksAt := by rintro s _ rfl; exact ⟨rfl, rfl, rfl, rfl⟩
  goto := by rintro s _ q rfl; rfl
  record := by rintro s _ e rfl; rfl
  takeLock := by rintro s _ rfl; rfl
  unlock := by rintro s _ rfl; rfl
  complete := by rintro s _ res rfl; rfl
  raise := by rintro s _ e rfl; exact raise_setInit x e s
  otherTakes := by rintro s _ rfl; rfl
  otherReleases := by rintro s _ rfl; rfl
  setEnv := by rintro s _ l rfl; rfl

/-- The run in another initialization state is the same run. -/
theorem run_setInit (cfg : Cfg) {i : Instr} (hi : oneTransaction i) (x : InitState) (s : State) :
    (pseudocode cfg i).run (s.setInit x) = ((pseudocode cfg i).run s).setInit x :=
  (setInit_keptByPrimitives x).run cfg hi rfl rfl

/-- INIT_STATE stays: the run with it set to what it is, is the run. -/
theorem run_initState (cfg : Cfg) {i : Instr} (hi : oneTransaction i) (s : State) :
    ((pseudocode cfg i).run s).initState = s.initState := by
  have h : (pseudocode cfg i).run s = ((pseudocode cfg i).run s).setInit s.initState := run_setInit cfg hi s.initState s
  rw [h, State.setInit_initState]

/-! ### Transactions -/

/-- Two states with the same position and lock situation, that have recorded the same transactions since these histories. -/
structure SameTxs (h h' : List Event) (s s' : State) : Prop where
  cfg        : s'.cfg = s.cfg
  busy       : s'.busy = s.busy
  seq        : s'.seq = s.seq
  lockHeld   : s'.lockHeld = s.lockHeld
  otherHolds : s'.otherHolds = s.otherHolds
  txs        : ∃ txs, txsOf s.history = txsOf h ++ txs ∧ txsOf s'.history = txsOf h' ++ txs

theorem sameTxs_keptByPrimitives (h h' : List Event) : KeptByPrimitives (SameTxs h h') where
  looksAt hs := ⟨hs.cfg, hs.busy, hs.seq, hs.otherHolds⟩
  goto _ hs := ⟨hs.cfg, hs.busy, rfl, hs.lockHeld, hs.otherHolds, hs.txs⟩
  record e hs := by
    obtain ⟨txs, heq, heq'⟩ := hs.txs
    exact ⟨hs.cfg, hs.busy, hs.seq, hs.lockHeld, hs.otherHolds, txs ++ txsOf [e], by simp [heq], by simp [heq']⟩
  takeLock hs := ⟨hs.cfg, hs.busy, hs.seq, rfl, hs.otherHolds, by simpa [txsOf] using hs.txs⟩
  unlock hs := ⟨hs.cfg, hs.busy, hs.seq, rfl, hs.otherHolds, by simpa [txsOf] using hs.txs⟩
  complete res hs := ⟨hs.cfg, by simp, by simp, hs.lockHeld, hs.otherHolds, by simpa [txsOf] using hs.txs⟩
  raise e hs :=
    ⟨by simp [hs.cfg], by simp, by simp, by simp, by simp [hs.otherHolds], by simpa only [txsOf_raise] using hs.txs⟩
  otherTakes hs := ⟨hs.cfg, hs.busy, hs.seq, hs.lockHeld, by simp [hs.otherHolds, hs.lockHeld], hs.txs⟩
  otherReleases hs := ⟨hs.cfg, hs.busy, hs.seq, hs.lockHeld, rfl, hs.txs⟩
  setEnv _ hs := ⟨hs.cfg, hs.busy, hs.seq, hs.lockHeld, hs.otherHolds, hs.txs⟩

end Sys2Proof.Machine
end

section
/-! CERTIFICATES. SEND (41_channel_send.md R120–R128), and what it has in common with WRITE and READ (R126, R149). -/

namespace Sys2Proof.Machine

open Sys2Proof.Claims

/-! ### SEND, WRITE and READ: the gate and the frame -/

/-- Settles O36: no internal step of theirs looks at INIT_STATE. -/
theorem busCommandsAreNotGated : Obligations.BusCommandsAreNotGated := by
  intro i s t x hi h
  rw [exec_eq_run] at h
  cases h
  rw [exec_eq_run]
  exact congrArg _ (run_setInit s.cfg hi x s)

/-- A command with one transaction is none of those that write SAVED_MODE. -/
theorem oneTransaction_ne_start {i : Instr} (hi : oneTransaction i) : (.ok i : Except DecodeError Instr) ≠ .ok .start := by
  rintro ⟨⟩
  exact hi

/-- Settles O54: the frame of every run, and INIT_STATE, which these commands do not write either. -/
theorem frameOfBusCommands : Obligations.FrameOfBusCommands := by
  intro i s t hi h
  rw [exec_eq_run] at h
  cases h
  have hkept := run_kept s.cfg i s
  exact ⟨hkept.cfg, hkept.cmd, run_initState s.cfg hi s, hkept.savedMode (oneTransaction_ne_start hi), hkept.hostQueue,
    fun hb hbt => (run_written s.cfg i hb).of_busy hbt⟩

/-- Settles O29: runs in the same position over the same moves record the same transactions. -/
theorem sendKeepsNoState : Obligations.SendKeepsNoState := by
  intro s s' t t' k v es es' hs hs' hcfg henv hother h h' hes hes'
  obtain ⟨htcfg, htcmd, htinit, htsaved, -, -⟩ := frameOfBusCommands (.send k v) s t trivial h
  rw [exec_eq_run] at h h'
  cases h
  cases h'
  have hstart : SameTxs s.history s'.history s s' :=
    ⟨hcfg, by rw [hs.busy, hs'.busy], by rw [hs.atStart, hs'.atStart], by rw [hs.unlocked, hs'.unlocked], hother, [],
      by simp, by simp⟩
  obtain ⟨txs, heq, heq'⟩ := ((sameTxs_keptByPrimitives _ _).run s.cfg (i := .send k v) trivial henv hstart).txs
  rw [hes, txsOf_append, List.append_cancel_left_eq] at heq
  rw [← hcfg, hes', txsOf_append, List.append_cancel_left_eq] at heq'
  exact ⟨heq.trans heq'.symm, htinit, htsaved, htcfg, htcmd⟩

/-! ### The downsampling (R121, R123–R125) -/

/-- Settles O25: one more tick crosses a multiple of 16 from a remainder of 15 only. -/
theorem downsamplingRoundsUpOnlyAtFifteen : Obligations.DownsamplingRoundsUpOnlyAtFifteen := by
  refine ⟨fun c => ?_, by decide, by decide, by decide⟩
  rw [downsample]
  split <;> omega

theorem downsample_mono {c d : Int} (h : c ≤ d) : downsample c ≤ downsample d := by
  rw [downsample, downsample]
  omega

theorem downsample_neg_iff (c : Int) : downsample c < 0 ↔ c ≤ -2 := by
  rw [downsample]
  omega

theorem lt_downsample_iff (c : Int) : 65535 < downsample c ↔ 1048575 ≤ c := by
  rw [downsample]
  omega

theorem fitsOff_iff (sh : Int) : fitsOff sh = true ↔ 0 ≤ sh ∧ sh ≤ 0xFFFF := by
  rw [fitsOff, Bool.and_eq_true, decide_eq_true_eq, decide_eq_true_eq]

/-- `sh` by the exact formula of R120. -/
theorem shiftedCycle_eq_floor (c : SlotParams) (v : Word) : shiftedCycle c v =
    ⌊((((c.minTicks : Int) + ⌊(v.toInt : ℚ) * (c.scale : ℚ) / 65536⌋ + 1 : Int) : ℚ) / 16)⌋ := by
  rw [← cycleOf_eq_floor]
  exact (Rat.floor_intCast_div_natCast (cycleOf c v + 1) 16).symm

/-- Both slots of a block are valid (R7). -/
theorem slot_valid (cfg : Cfg) (k : Nat) : (cfg.slot k).valid = true := by
  have h := cfg.valid
  rw [Params.valid, Bool.and_eq_true, Bool.and_eq_true] at h
  obtain ⟨⟨-, h0⟩, h1⟩ := h
  rw [Cfg.slot, Params.slot]
  split
  · exact h0
  · exact h1

section InRange

variable {c : SlotParams} {v : Word}

/-- A value in [0, 1] is downsampled into the downsampled range of the slot, and so to at most 4096 (R124). -/
theorem shiftedCycle_mem_range (hc : c.valid = true) (h0 : 0 ≤ v.toInt) (h1 : v.toInt ≤ 65536) :
    downsample c.minTicks ≤ shiftedCycle c v ∧ shiftedCycle c v ≤ downsample c.maxTicks ∧
    0 ≤ shiftedCycle c v ∧ shiftedCycle c v ≤ 4096 := by
  obtain ⟨hmin, hmax⟩ := cycleOf_mem_range v hc h0 h1
  have hle := SlotParams.maxTicks_le_of_valid hc
  exact ⟨downsample_mono hmin, downsample_mono hmax, Int.ediv_nonneg (by omega) (by decide),
    downsample_mono (d := 65535) (by omega)⟩

theorem fitsOff_of_mem_range (hc : c.valid = true) (h0 : 0 ≤ v.toInt) (h1 : v.toInt ≤ 65536) :
    fitsOff (shiftedCycle c v) = true := by
  obtain ⟨-, -, hlow, hhigh⟩ := shiftedCycle_mem_range hc h0 h1
  exact (fitsOff_iff _).mpr ⟨hlow, by omega⟩

/-- 4096 comes from a count of 65535, the most MAX_TICKS can be, and only 1.0 or a SCALE of 0 gives MAX_TICKS (log entry 8). -/
theorem maxTicks_eq_of_shiftedCycle_eq (hc : c.valid = true) (h0 : 0 ≤ v.toInt) (h1 : v.toInt ≤ 65536)
    (h : shiftedCycle c v = 4096) : c.maxTicks = 65535 ∧ (v = 0x00010000#32 ∨ c.scale = 0) := by
  obtain ⟨-, hmax⟩ := cycleOf_mem_range v hc h0 h1
  have hle := SlotParams.maxTicks_le_of_valid hc
  rw [shiftedCycle, downsample] at h
  obtain ⟨-, hmaxIff, -⟩ := cycleIsNotClamped c v hc
  refine ⟨by omega, (hmaxIff.mp (by omega)).imp_left fun hv => ?_⟩
  exact BitVec.eq_of_toInt_eq (le_antisymm h1 hv)

end InRange

/-! ### The range check (R123) -/

theorem send_first_fits {cfg : Cfg} {k : Nat} {v : Word} (h : fitsOff (shiftedCycle (cfg.slot k) v) = true) (s : State) :
    (pseudocode cfg (.send k v)).first s = s.goto .lock := if_pos h

/-- Error entry of a command that took no lock (R217). -/
theorem raise_eq_endedAtOnce {s : State} (hl : s.lockHeld = false) (e : ErrInfo) :
    s.raise e = endedAtOnce s (errSt (opOf s.cmd) e.code e.step e.errReg e.errDev) s.result := by
  rw [State.raise_eq]
  simp [endedAtOnce, errSt, hl]

/-- What does not fit is refused in the first internal step, before the lock. -/
theorem execSend_refused {s : State} {k : Nat} {v : Word} (hs : s.Accepted (.send k v))
    (h : ¬fitsOff (shiftedCycle (s.cfg.slot k) v) = true) :
    exec (.send k v) s = .next (endedAtOnce s (errSt 0x2 .encodeRange 0 (slotAddr k) 0) s.result) := by
  have hfirst : (pseudocode s.cfg (.send k v)).first s = s.raise (encodeRange (slotAddr k)) := if_neg h
  have hop : opOf s.cmd = 0x2 := by rw [hs.latched]; exact opOf_packCmd ..
  rw [exec_eq_run, Pseudocode.run_atStart _ hs.atStart, hfirst, State.raise_busy, if_neg Bool.false_ne_true,
    raise_eq_endedAtOnce hs.unlocked, hop]
  rfl

/-- Settles O27: the two bounds, the refusal, and that the count of a value in [0, 1] lies within 0..65535. -/
theorem sendRefusesWhatDoesNotFit : Obligations.SendRefusesWhatDoesNotFit := by
  refine ⟨fun c => ⟨downsample_neg_iff c, lt_downsample_iff c⟩, fun s k v hs hcycle => ?_, fun c v hc hcycle => ?_⟩
  · rw [← slotAddr_eq]
    refine execSend_refused hs fun hfits => ?_
    obtain ⟨hlow, hhigh⟩ := (fitsOff_iff _).mp hfits
    obtain h | h := hcycle
    · exact absurd ((downsample_neg_iff _).mpr h) (not_lt.mpr hlow)
    · exact absurd ((lt_downsample_iff _).mpr h) (not_lt.mpr hhigh)
  · by_contra hv
    obtain ⟨hmin, hmax⟩ := cycleOf_mem_range v hc (by omega) (by omega)
    have hle := SlotParams.maxTicks_le_of_valid hc
    omega

/-! ### How a command that takes the lock ends -/

/-- It still runs, or has ended with OK or BUS_IO. -/
def RunsOrEndsByAnswer (t : State) : Prop := t.busy = true ∨ (t.busy = false ∧ (codeOf t.status = 0 ∨ codeOf t.status = 4))

theorem complete_endsByAnswer (res : Word) (s : State) : RunsOrEndsByAnswer (s.complete res) :=
  .inr ⟨rfl, .inl (by simp [okStatus, Code.bits])⟩

theorem raise_busIo_endsByAnswer (reg : Byte) (dev : DevAddr) (s : State) :
    RunsOrEndsByAnswer (s.raise (busIo 0 reg dev)) :=
  .inr ⟨s.raise_busy _, .inr (by simp [errorStatus_eq, busIo, Code.bits])⟩

/-- Past its first internal step a command with one transaction ends only by its answer. -/
theorem deliver_endsByAnswer (cfg : Cfg) {i : Instr} (hi : oneTransaction i) (m : EnvMove) {s : State}
    (hb : s.busy = true) : RunsOrEndsByAnswer ((pseudocode cfg i).deliver m s) := by
  obtain ⟨first, reg, req, result, hp, -⟩ := pseudocode_oneAccess hi cfg
  rw [hp]
  obtain h | ⟨-, h⟩ | ⟨-, h⟩ | ⟨-, -, -, h⟩ | ⟨a, r, -, -, h⟩ | ⟨-, -, h⟩ :=
    (Pseudocode.oneAccess first reg req result).deliver_cases m s <;> rw [h]
  · exact .inl hb
  · exact .inl hb
  · exact .inl hb
  · exact .inl hb
  · cases r.outcome a with
    | none => exact raise_busIo_endsByAnswer reg _ _
    | some bytes => exact complete_endsByAnswer _ _
  · exact .inl hb

/-- Settles O26: a value in [0, 1] passes the range check, and SEND comes to `Lock()`. -/
theorem sendInRangeIsNeverRefused : Obligations.SendInRangeIsNeverRefused := by
  refine ⟨fun c v hc h0 h1 => ?_, fun s t k v hs h0 h1 h => ?_⟩
  · obtain ⟨hmin, hmax, hlow, hhigh⟩ := shiftedCycle_mem_range hc h0 h1
    exact ⟨hmin, hmax, hlow, hhigh, fitsOff_of_mem_range hc h0 h1, maxTicks_eq_of_shiftedCycle_eq hc h0 h1⟩
  · rw [exec_eq_run] at h
    cases h
    have hfits := fitsOff_of_mem_range (slot_valid s.cfg k) h0 h1
    refine Pseudocode.run_keeps _ (P := RunsOrEndsByAnswer) s hs.busy (fun _ => ?_) (fun _ => .inl hs.busy)
      (fun m u hu _ => deliver_endsByAnswer s.cfg (i := .send k v) trivial m hu) (fun _ _ h => h)
    rw [send_first_fits hfits]
    exact .inl hs.busy

/-! ### The write (R120, R122) -/

/-- Completion in the lock hold, after its `Unlock()` (R218). -/
theorem underLock_complete {s : State} (hl : s.lockHeld = false) (inside : List Event) (q : Seq) (res : Word)
    (rest : List EnvMove) : ((s.underLock inside q).unlock.complete res).setEnv rest =
      endedUnderLock s rest inside (okSt s (opOf s.cmd)) res := by
  rw [State.unlock_complete_eq]
  simp [State.underLock, State.setEnv, endedUnderLock, okStatus, okSt, hl]

/-- A command with one transaction that is answered OK completes with the value of the bytes read (R140, R143). -/
theorem oneAccess_succeeds {i : Instr} {op : BitVec 4} {s : State} {a : BusAnswer} {got : List Byte} {rest : List EnvMove}
    {first : State → State} {reg : Byte} {req : DevAddr → BusRequest} {result : List Byte → Word}
    (hp : pseudocode s.cfg i = .oneAccess first reg req result) (hfirst : first s = s.goto .lock) (hs : s.Accepted i)
    (henv : s.Served [.answer a] rest) (hgot : (req s.cfg.dev).outcome a = some got) (hop : opOf (encode i) = op) :
    exec i s = .next (endedUnderLock s rest [.tx (req s.cfg.dev) (some got)] (okSt s op) (result got)) := by
  rw [exec_eq_run, hp, Pseudocode.oneAccess_served_ok hs.atStart hs.busy hfirst henv.free henv.moves hgot,
    goto_takeLock, underLock_record, underLock_complete hs.unlocked, hs.latched, hop]
  rfl

section Payload

variable {sh : Int}

/-- OFF as bytes: the low and the high byte of `sh` (R52, R120). -/
theorem pwmPayload_offWord (h0 : 0 ≤ sh) (h1 : sh ≤ 0xFFFF) :
    pwmPayload 0 (offWord sh) = [0x00, 0x00, BitVec.ofInt 8 sh, BitVec.ofInt 8 (sh / 256)] := by
  obtain ⟨n, rfl⟩ := Int.eq_ofNat_of_zero_le h0
  have hoff : (offWord (n : Int)).toNat = n := by
    rw [offWord, BitVec.ofInt_natCast, BitVec.toNat_ofNat]
    omega
  rw [pwmPayload, le16_eq, le16_eq, hoff, BitVec.ofInt_natCast]
  rfl

/-- RESULT is OFF with zeros above it, and reads as `sh`. -/
theorem setWidth_offWord (h0 : 0 ≤ sh) (h1 : sh ≤ 0xFFFF) : (offWord sh).setWidth 32 = BitVec.ofInt 32 sh := by
  obtain ⟨n, rfl⟩ := Int.eq_ofNat_of_zero_le h0
  rw [offWord, BitVec.ofInt_natCast, BitVec.ofInt_natCast]
  exact BitVec.setWidth_ofNat_of_le_of_lt (by decide) (by omega)

end Payload

/-- Settles O28: the range check first; then the one transaction, whose frame is the slot's address, ON = 0 and OFF. -/
theorem sendWritesTheChannel : Obligations.SendWritesTheChannel := by
  intro s k v sh a rest junk hs hsh ha
  rw [← shiftedCycle_eq_floor] at hsh
  rw [← slotAddr_eq] at ha
  subst ha
  refine ⟨fun hout => execSend_refused hs ?_, fun h0 h1 henv => ?_, fun h0 h1 henv => ?_⟩
  · rw [← hsh, fitsOff_iff]
    omega
  all_goals
    have hfits : fitsOff (shiftedCycle (s.cfg.slot k) v) = true := hsh ▸ (fitsOff_iff sh).mpr ⟨h0, h1⟩
    rw [← pwmPayload_offWord h0 h1, hsh]
  · rw [← setWidth_offWord (hsh ▸ h0) (hsh ▸ h1)]
    exact oneAccess_succeeds (pseudocode_send s.cfg k v) (send_first_fits hfits s) hs henv rfl (opOf_packCmd ..)
  · exact oneAccess_fails (pseudocode_send s.cfg k v) (send_first_fits hfits s) hs henv rfl (opOf_packCmd ..)

end Sys2Proof.Machine
end

section
/-! CERTIFICATES. WRITE and READ (42_register_access.md R140–R147): the one transaction of each and how the command ends. -/

namespace Sys2Proof.Machine

/-! ### The payload of a PWM register (R52, R144, R147) -/

/-- ON, then OFF, each low byte first, by the numbers of the statements. -/
theorem pwmPayload_eq (on off : Half) : pwmPayload on off =
    [BitVec.ofNat 8 on.toNat, BitVec.ofNat 8 (on.toNat / 256),
     BitVec.ofNat 8 off.toNat, BitVec.ofNat 8 (off.toNat / 256)] := by
  rw [pwmPayload, le16_eq, le16_eq]
  rfl

/-- `{OFF, ON}` of four bytes is the number they write low byte first. -/
theorem pwmValue_eq (b0 b1 b2 b3 : Byte) : pwmValue [b0, b1, b2, b3] =
    BitVec.ofNat 32 (((b3.toNat * 256 + b2.toNat) * 256 + b1.toNat) * 256 + b0.toNat) := by
  rw [pwmValue, pairWord_eq, half_toNat, half_toNat]
  exact congrArg _ (by ring)

/-- The two bytes of a word, put together again (R9). -/
theorem half_le16 (w : Half) : half (w.extractLsb' 0 8) (w.extractLsb' 8 8) = w := by
  apply BitVec.eq_of_toNat_eq
  rw [half_toNat]
  simp [Nat.shiftRight_eq_div_pow]
  omega

/-- A PWM payload is decoded to the pair it was encoded from (R52, R147). -/
theorem pwmValue_pwmPayload (on off : Half) : pwmValue (pwmPayload on off) = pairWord on off :=
  congrArg₂ pairWord (half_le16 on) (half_le16 off)

/-! ### The commands -/

/-- Settles O30: each write is one transaction, and the two answers are its two ends. -/
theorem writeByteRegisters : Obligations.WriteByteRegisters := by
  refine fun s b rest junk => ⟨fun hs henv => ?_, fun hs henv => ?_, fun hs henv => ?_, fun hs henv => ?_⟩
  · exact oneAccess_succeeds (pseudocode_writeMode s.cfg b) rfl hs henv rfl (opOf_packCmd ..)
  · exact oneAccess_fails (pseudocode_writeMode s.cfg b) rfl hs henv rfl (opOf_packCmd ..)
  · exact oneAccess_succeeds (pseudocode_writePrescale s.cfg b) rfl hs henv rfl (opOf_packCmd ..)
  · exact oneAccess_fails (pseudocode_writePrescale s.cfg b) rfl hs henv rfl (opOf_packCmd ..)

/-- Settles O31: the frame is the channel's address and the payload, RESULT the pair, both as numbers. -/
theorem writePwmSendsThePair : Obligations.WritePwmSendsThePair := by
  intro s n on off rest junk frame hs hframe
  have hpayload : frame = pwmAddr n :: pwmPayload on off := by
    rw [hframe, pwmPayload_eq]
    rfl
  rw [hpayload, ← pairWord_eq]
  refine ⟨fun henv => ?_, fun henv => ?_⟩
  · exact oneAccess_succeeds (pseudocode_writePwm s.cfg n on off) rfl hs henv rfl (opOf_packCmd ..)
  · exact oneAccess_fails (pseudocode_writePwm s.cfg n on off) rfl hs henv rfl (opOf_packCmd ..)

/-- Settles O32: an answer with one byte is what the read asks for, and RESULT is the value of that payload. -/
theorem readByteRegisters : Obligations.ReadByteRegisters := by
  refine fun s b rest => ⟨fun hs henv => ?_, fun hs henv => ?_, fun hs henv => ?_, fun hs henv => ?_⟩
  · exact oneAccess_succeeds (pseudocode_readMode s.cfg) rfl hs henv rfl (opOf_packCmd ..)
  · exact oneAccess_fails (pseudocode_readMode s.cfg) rfl hs henv rfl (opOf_packCmd ..)
  · exact oneAccess_succeeds (pseudocode_readPrescale s.cfg) rfl hs henv rfl (opOf_packCmd ..)
  · exact oneAccess_fails (pseudocode_readPrescale s.cfg) rfl hs henv rfl (opOf_packCmd ..)

/-- Settles O33: an answer with four bytes is what the read asks for, and RESULT is the number they write low byte first. -/
theorem readPwmDecodesThePair : Obligations.ReadPwmDecodesThePair := by
  refine fun s n b0 b1 b2 b3 rest hs => ⟨fun henv => ?_, fun henv => ?_⟩
  · rw [← pwmValue_eq]
    exact oneAccess_succeeds (pseudocode_readPwm s.cfg n) rfl hs henv rfl (opOf_packCmd ..)
  · exact oneAccess_fails (pseudocode_readPwm s.cfg n) rfl hs henv rfl (opOf_packCmd ..)

end Sys2Proof.Machine
end

section
/-! CERTIFICATES. A command with one transaction on chip fixture F, step by step, and the read after the write
(42_register_access.md R150; 95_test_vectors.md section 0). -/

namespace Sys2Proof.Machine

open Sys2Proof.Claims

/-! ### A run over at most one move -/

namespace Pseudocode

variable (p : Pseudocode) {s : State}

/-- The first internal step, with no move to come. -/
theorem run_start_alone (hseq : s.seq = .start) (hbusy : (p.first (s.setEnv [])).busy = true) :
    p.run (s.setEnv []) = (p.first (s.setEnv [])).setEnv [] := by
  rw [run_atStart p (s := s.setEnv []) hseq, if_pos hbusy]
  rfl

/-- One move, where the command has begun. -/
theorem run_one_move {m : EnvMove} (hm : m ≠ .delay) (hseq : s.seq ≠ .start) :
    p.run (s.setEnv [m]) = (p.deliver m (s.setEnv [m])).setEnv [] := by
  rw [run_waiting p (s := s.setEnv [m]) hseq, State.setEnv_env, carryOn_cons p hm, carryOn_nil, ite_self]

theorem deliver_answer {r : BusRequest} {a : BusAnswer} (h : p.request s = some r) :
    p.deliver (.answer a) s = p.answered (r.outcome a) (s.record (.tx r (r.outcome a))) := by
  rw [deliver, onAnswer, h]

end Pseudocode

namespace Rig

/-! ### One step with the fixture -/

theorem finish_next {g g' : Rig} (hb : g.block.busy = true) (hnext : g.next = g') (fuel : Nat) :
    finish (fuel + 1) g = finish fuel g' := (if_pos hb).trans (congrArg (finish fuel) hnext)

theorem finish_ready {g : Rig} (hb : g.block.busy = false) (fuel : Nat) : finish fuel g = g := by
  cases fuel with
  | zero => rfl
  | succ fuel => exact if_neg (ne_true_of_eq_false hb)

/-- While a command runs, a step carries its pseudocode on. -/
theorem advance_running {g : Rig} {i : Instr} (hb : g.block.busy = true) (hi : decode g.block.cmd = .ok i)
    (env : List EnvMove) :
    g.advance env = { g with block := (pseudocode g.block.cfg i).run (g.block.setEnv env) } := by
  rw [advance, stepRunsTheLatchedCommand (g.block.setEnv env) i hb hi, exec_eq_run]
  rfl

/-- A transaction to the fixture's address is served where none is to fail. -/
theorem answer_served {g : Rig} {r : BusRequest} (hdev : r.dev = g.fixAddr) (hfail : g.failAt = []) :
    g.answer r = ({ g with chip := (g.chip.serve r).1, count := g.count + 1 }, (g.chip.serve r).2) :=
  if_pos (by simp [hdev, hfail])

/-! ### The three steps of a command with one transaction -/

/-- A command with one transaction runs, with no range check before its `Lock()` (R140, R143). -/
structure Runs (g : Rig) (i : Instr) (reg : Byte) (req : DevAddr → BusRequest) (result : List Byte → Word) : Prop where
  busy    : g.block.busy = true
  latched : decode g.block.cmd = .ok i
  code    : pseudocode g.block.cfg i = .oneAccess (State.goto .lock) reg req result

section Steps

variable {g : Rig} {i : Instr} {reg : Byte} {req : DevAddr → BusRequest} {result : List Byte → Word}

theorem Runs.advance (h : g.Runs i reg req result) (env : List EnvMove) :
    g.advance env =
      { g with block := (Pseudocode.oneAccess (State.goto .lock) reg req result).run (g.block.setEnv env) } := by
  rw [advance_running h.busy h.latched, h.code]

theorem Runs.outstanding (h : g.Runs i reg req result) :
    g.block.outstanding = if g.block.seq = .access then some (req g.block.cfg.dev) else none := by
  rw [State.outstanding, h.latched]
  exact congrArg (fun p => p.request g.block) h.code

/-- From the start of its pseudocode it comes to `Lock()`. -/
theorem Runs.next_start (h : g.Runs i reg req result) (hseq : g.block.seq = .start) :
    g.next = { g with block := (g.block.goto .lock).setEnv [] } := by
  have hnext : g.next = g.advance [] := by
    simp [next, h.outstanding, hseq]
  rw [hnext, h.advance, Pseudocode.run_start_alone _ hseq h.busy]
  rfl

/-- At `Lock()` it is granted the lock and comes to its transaction. -/
theorem Runs.next_lock (h : g.Runs i reg req result) (hseq : g.block.seq = .lock) (hfree : g.block.otherHolds = false) :
    g.next = { g with block := (g.block.takeLock.goto .access).setEnv [] } := by
  have hnext : g.next = g.advance [.grant] := by
    rw [next, hseq]
  have hgrant : (g.block.setEnv [.grant]).canGrant = true := by
    simp [State.canGrant, hseq, hfree]
  rw [hnext, h.advance, Pseudocode.run_one_move _ (m := .grant) nofun (by simp [hseq]), Pseudocode.deliver, if_pos hgrant]
  rfl

/-- At its transaction it is answered by the fixture, and completes. -/
theorem Runs.next_access {got : List Byte} (h : g.Runs i reg req result) (hseq : g.block.seq = .access)
    (hdev : (req g.block.cfg.dev).dev = g.fixAddr) (hfail : g.failAt = [])
    (hgot : (req g.block.cfg.dev).outcome (g.chip.serve (req g.block.cfg.dev)).2 = some got) :
    g.next = { g with
      block := ((g.block.record (.tx (req g.block.cfg.dev) (some got))).unlock.complete (result got)).setEnv []
      chip := (g.chip.serve (req g.block.cfg.dev)).1, count := g.count + 1 } := by
  have hnext : g.next = (g.answer (req g.block.cfg.dev)).1.advance [.answer (g.answer (req g.block.cfg.dev)).2] := by
    simp [next, h.outstanding, hseq]
  have hserved : Runs { g with chip := (g.chip.serve (req g.block.cfg.dev)).1, count := g.count + 1 } i reg req result :=
    ⟨h.busy, h.latched, h.code⟩
  rw [hnext, answer_served hdev hfail, hserved.advance, Pseudocode.run_one_move _ (m := .answer _) nofun (by simp [hseq]),
    Pseudocode.deliver_answer _ (if_pos hseq), State.setEnv_cfg, hgot]
  rfl

/-- From its start it ends as it does when served at once, with the fixture's answer to its transaction. -/
theorem Runs.finish_start {got : List Byte} (h : g.Runs i reg req result) (hseq : g.block.seq = .start)
    (hlock : g.block.lockHeld = false) (hfree : g.block.otherHolds = false)
    (hdev : (req g.block.cfg.dev).dev = g.fixAddr) (hfail : g.failAt = [])
    (hgot : (req g.block.cfg.dev).outcome (g.chip.serve (req g.block.cfg.dev)).2 = some got) (fuel : Nat) :
    finish (fuel + 3) g = { g with
      block := endedUnderLock g.block [] [.tx (req g.block.cfg.dev) (some got)]
        (okSt g.block (opOf g.block.cmd)) (result got)
      chip := (g.chip.serve (req g.block.cfg.dev)).1, count := g.count + 1 } := by
  have hatLock : Runs { g with block := (g.block.goto .lock).setEnv [] } i reg req result :=
    ⟨h.busy, h.latched, h.code⟩
  have hatAccess : Runs { g with block := (g.block.underLock [] .access).setEnv [] } i reg req result :=
    ⟨h.busy, h.latched, h.code⟩
  rw [← underLock_complete hlock _ .access]
  calc finish (fuel + 3) g
    _ = finish (fuel + 2) { g with block := (g.block.goto .lock).setEnv [] } :=
      finish_next h.busy (h.next_start hseq) (fuel + 2)
    _ = finish (fuel + 1) { g with block := (g.block.underLock [] .access).setEnv [] } :=
      finish_next hatLock.busy (hatLock.next_lock rfl hfree) (fuel + 1)
    _ = _ := finish_next hatAccess.busy (hatAccess.next_access rfl hdev hfail hgot) fuel
    _ = _ := finish_ready rfl fuel
    _ = _ := by
      rw [← List.nil_append [_], ← underLock_record]
      rfl

/-- The block is idle, and the fixture answers at its address and fails nothing. -/
structure Ready (g : Rig) : Prop where
  idle      : g.block.busy = false
  unlocked  : g.block.lockHeld = false
  free      : g.block.otherHolds = false
  atDev     : g.fixAddr = g.block.cfg.dev
  failsNone : g.failAt = []

/-- A command with one transaction, issued on such a rig. -/
theorem issue_oneAccess {got : List Byte} (hg : g.Ready) (hi : i.wellFormed = true)
    (hp : pseudocode g.block.cfg i = .oneAccess (State.goto .lock) reg req result)
    (hdev : (req g.block.cfg.dev).dev = g.block.cfg.dev)
    (hgot : (req g.block.cfg.dev).outcome (g.chip.serve (req g.block.cfg.dev)).2 = some got) :
    g.issue (encode i) = { g with
      block := endedUnderLock (g.block.accept (encode i)) [] [.tx (req g.block.cfg.dev) (some got)]
        (okSt g.block (opOf (encode i))) (result got)
      chip := (g.chip.serve (req g.block.cfg.dev)).1, count := g.count + 1 } := by
  have hruns : Runs { g with block := g.block.accept (encode i) } i reg req result := ⟨rfl, decodeInvertsEncode i hi, hp⟩
  rw [issue, if_neg (ne_true_of_eq_false hg.idle)]
  exact hruns.finish_start rfl hg.unlocked hg.free (hdev.trans hg.atDev.symm) hg.failsNone hgot 9

end Steps

/-! ### The read after the write (R150) -/

theorem outcome_memRead_some {dev : DevAddr} {a : Byte} {n : Nat} {bytes : List Byte} (h : bytes.length = n) :
    (memRead dev a n).outcome (.ok bytes) = some bytes := if_pos h

/-- The fixture returns what was written: the write leaves the rig ready, and the read is answered with the payload. -/
theorem result_read_after_write {g : Rig} (hg : g.Ready) (hwf : g.chip.wf = true) {w r : Instr} (hw : w.wellFormed = true)
    (hr : r.wellFormed = true) {a : Byte} {payload : List Byte} {res : Word} {value : List Byte → Word}
    (hwrite : ∀ cfg, pseudocode cfg w = .regWrite a payload res)
    (hread : ∀ cfg, pseudocode cfg r = .regRead a payload.length value) :
    ((g.issue (encode w)).issue (encode r)).block.result = value payload := by
  have hback := Chip.readFrom_writeFrom a.toNat payload hwf
  have hissue := issue_oneAccess hg hw (hwrite _) rfl rfl
  have hready : (g.issue (encode w)).Ready := by
    rw [hissue]
    exact ⟨rfl, hg.unlocked, hg.free, hg.atDev, hg.failsNone⟩
  have hchip : (g.issue (encode w)).chip = g.chip.writeFrom a.toNat payload := by
    rw [hissue]
    rfl
  have hserved (dev : DevAddr) : ((g.issue (encode w)).chip.serve (memRead dev a payload.length)).2 = .ok payload := by
    rw [hchip]
    exact congrArg BusAnswer.ok hback
  have hgot (dev : DevAddr) : (memRead dev a payload.length).outcome
      ((g.issue (encode w)).chip.serve (memRead dev a payload.length)).2 = some payload := by
    rw [hserved, outcome_memRead_some rfl]
  rw [issue_oneAccess hready hr (hread _) rfl (hgot _)]
  rfl

end Rig

/-- Settles O35: the read returns the payload that was written, and each payload is decoded to what it was encoded from. -/
theorem fixtureRoundTrip : Obligations.FixtureRoundTrip := by
  intro g hbusy hlock hfree hdev hfail hwf
  have hg : g.Ready := ⟨hbusy, hlock, hfree, hdev, hfail⟩
  refine ⟨fun n on off hn => ?_, fun b => ?_, fun b => ?_⟩
  · have hchannel : channelOk n = true := decide_eq_true hn
    rw [← pairWord_eq, ← pwmValue_pwmPayload]
    exact Rig.result_read_after_write hg hwf (w := .writePwm n on off) (r := .readPwm n) hchannel hchannel
      (fun _ => rfl) (fun _ => rfl)
  · exact Rig.result_read_after_write hg hwf (w := .writeMode b) (r := .readMode) rfl rfl (fun _ => rfl) (fun _ => rfl)
  · exact Rig.result_read_after_write hg hwf (w := .writePrescale b) (r := .readPrescale) rfl rfl (fun _ => rfl)
      (fun _ => rfl)

end Sys2Proof.Machine
end

section
/-! SUPPORT. INIT_STATE over a run (43_device_init.md R160): it stays while the command waits, and moves at its end by R160's table
where the command's gate was open; a closed gate ends the command in its first internal step (R161, R168). -/

namespace Sys2Proof.Machine

open Sys2Proof.Claims

/-- What a run leaves of INIT_STATE, where the command's gate was open. -/
inductive InitCourse (i : Instr) (s t : State) : Prop where
  | waiting (hbusy : t.busy = true) (hinit : t.initState = s.initState)
  | ended (hbusy : t.busy = false)
      (hinit : gateOk i s.initState = true → t.initState = initAfter (.ok i) (codeOf t.status) s.initState)

namespace InitCourse

variable {i : Instr} {s t u : State}

theorem of_busy (h : InitCourse i s t) (hb : t.busy = true) : t.initState = s.initState := by
  cases h with
  | waiting _ hinit => exact hinit
  | ended hb' => simp [hb] at hb'

/-- Carried on from a state in which the command still ran. -/
theorem trans (h : InitCourse i s u) (hb : u.busy = true) (h' : InitCourse i u t) : InitCourse i s t := by
  have hu := h.of_busy hb
  cases h' with
  | waiting hb' hinit => exact .waiting hb' (hinit.trans hu)
  | ended hb' hinit => exact .ended hb' fun hgate => hu ▸ hinit (hu.symm ▸ hgate)

theorem setEnv (h : InitCourse i s t) (l : List EnvMove) : InitCourse i s (t.setEnv l) := by
  cases h with
  | waiting hb hinit => exact .waiting hb hinit
  | ended hb hinit => exact .ended hb hinit

end InitCourse

theorem AnswerStep.initCourse {i : Instr} {got : Option (List Byte)} {s t : State} (h : AnswerStep i got s t)
    (hb : s.busy = true) : InitCourse i s t := by
  cases h with
  | goes | savesMode | waits => exact .waiting hb rfl
  | completes x res hx => exact .ended rfl fun hgate => by simpa [okStatus] using hx hgate
  | raises x e he hx => exact .ended (by simp) fun hgate => by simpa [errorStatus_eq] using hx hgate

/-- Every move but a BUS answer leaves INIT_STATE, and the answer ends the command or leaves it too. -/
theorem deliver_initCourse (cfg : Cfg) (i : Instr) (m : EnvMove) {s : State} (hb : s.busy = true) :
    InitCourse i s ((pseudocode cfg i).deliver m s) := by
  obtain h | ⟨-, h⟩ | ⟨-, h⟩ | ⟨-, -, -, h⟩ | ⟨a, r, -, hr, h⟩ | ⟨-, -, h⟩ := (pseudocode cfg i).deliver_cases m s <;>
    rw [h]
  · exact .waiting hb rfl
  · exact .waiting hb rfl
  · exact .waiting hb rfl
  · obtain ⟨q, -, -, hg⟩ | ⟨-, hg⟩ := granted_step cfg i s.takeLock <;> rw [hg] <;> exact .waiting hb rfl
  · exact .trans (u := s.record _) (.waiting hb rfl) hb ((answered_step hr (State.record_seq s _) _).initCourse hb)
  · obtain ⟨-, hg⟩ | ⟨-, hg⟩ := settled_step cfg i (s.record .settleEnd) <;> rw [hg] <;> exact .waiting hb rfl

/-- Where the gate is closed BLOCK raises SEQ_ERROR at once, before any lock (R212). -/
theorem first_of_gate_closed (cfg : Cfg) {i : Instr} {s : State} (hgate : gateOk i s.initState = false) :
    (pseudocode cfg i).first s = s.raise seqError := by
  obtain ⟨k, v, rfl⟩ | hi | rfl | rfl := instr_kinds i
  · simp [gateOk] at hgate
  · simp [oneTransaction_gate hi] at hgate
  · exact if_pos (by simpa [gateOk] using hgate)
  · exact if_neg (by simpa [gateOk] using hgate)

theorem run_of_gate_closed (cfg : Cfg) {i : Instr} {s : State} (hstart : s.seq = .start)
    (hgate : gateOk i s.initState = false) : (pseudocode cfg i).run s = s.raise seqError := by
  rw [Pseudocode.run_atStart _ hstart, first_of_gate_closed cfg hgate, State.raise_busy, if_neg Bool.false_ne_true]

/-- The table has no move for a SEQ_ERROR behind a closed gate. -/
theorem initAfter_of_gate_closed {i : Instr} {x : InitState} (hgate : gateOk i x = false) :
    initAfter (.ok i) Code.seqError.bits x = x := by
  obtain ⟨k, v, rfl⟩ | hi | rfl | rfl := instr_kinds i
  · rfl
  · exact oneTransaction_initAfter hi _ x
  · cases x <;> simp_all [gateOk, initAfter]
  · cases x <;> simp_all [gateOk, startAllowed, initAfter]

theorem FirstStep.initState_eq {i : Instr} {s t : State} (h : FirstStep i s t) : t.initState = s.initState := by
  cases h with
  | locks => rfl
  | completes _ res => rfl
  | raises e => exact s.raise_initState e

/-- Only CONVERT and SEND can end in their first internal step with the gate open, and they have no row in the table. -/
theorem first_initCourse (cfg : Cfg) (i : Instr) {s : State} (hb : s.busy = true) :
    InitCourse i s ((pseudocode cfg i).first s) := by
  have hinit := (first_step cfg i s).initState_eq
  cases hbf : ((pseudocode cfg i).first s).busy with
  | true => exact .waiting hbf hinit
  | false =>
    have notAtLock : (pseudocode cfg i).first s ≠ s.goto .lock := fun h => by simp [h, hb] at hbf
    refine .ended hbf fun hgate => hinit.trans ?_
    obtain ⟨k, v, rfl⟩ | hi | rfl | rfl := instr_kinds i
    · rfl
    · exact (oneTransaction_initAfter hi _ _).symm
    · exact absurd (if_neg (by simpa [gateOk] using hgate)) notAtLock
    · exact absurd (if_pos hgate) notAtLock

theorem run_initCourse (cfg : Cfg) (i : Instr) {s : State} (hb : s.busy = true) :
    InitCourse i s ((pseudocode cfg i).run s) :=
  Pseudocode.run_keeps _ (P := InitCourse i s) s hb (fun _ => first_initCourse cfg i hb) (fun _ => .waiting hb rfl)
    (fun m _ hu h => h.trans hu (deliver_initCourse cfg i m hu)) (fun l _ h => h.setEnv l)

end Sys2Proof.Machine
end

section
/-! CERTIFICATES. INIT_STATE, and the frame of PROBE and START (43_device_init.md R160, R161, R165, R168, R180, R181). -/

namespace Sys2Proof.Machine

open Sys2Proof.Claims

/-- Settles O41: an open gate leaves the run to the table, behind a closed one it raises SEQ_ERROR, and an illegal word and a block
at rest leave INIT_STATE. -/
theorem initStateMovesByItsTable : Obligations.InitStateMovesByItsTable := by
  refine ⟨fun s t hs hb h => ?_, fun s t hb h hreset => ?_⟩
  · obtain ⟨i, -, hi, rfl⟩ | ⟨e, -, he, rfl⟩ | ⟨hidle, -⟩ := step_cases h
    · rw [hi]
      cases hgate : gateOk i s.initState with
      | true =>
        cases run_initCourse s.cfg i hb with
        | waiting hbt hinit => rw [if_pos hbt, hinit]
        | ended hbt hinit => rw [hbt, if_neg Bool.false_ne_true, hinit hgate]
      | false =>
        have hstart : s.seq = .start := by
          by_contra hne
          simp [(hs.fits hi (hs.busy_iff.mp hb) hne).2] at hgate
        rw [run_of_gate_closed s.cfg hstart hgate, State.raise_busy, if_neg Bool.false_ne_true, State.raise_initState,
          State.raise_status, errorStatus_eq, codeOf_statusWord]
        exact (initAfter_of_gate_closed hgate).symm
    · simp [he, State.completeIllegal, initAfter]
    · simp [hb] at hidle
  · obtain ⟨w, rest, rfl⟩ | ⟨hr, -⟩ | ⟨rest, l, b, rfl⟩ := step_of_idle hb h
    · rfl
    · exact absurd hr hreset
    · rfl

theorem initAfter_notFound (d : Except DecodeError Instr) (c : BitVec 4) : initAfter d c .notFound = .notFound := by
  cases d with
  | error => rfl
  | ok i => cases i <;> simp [initAfter]

/-- Settles O42: the table has no move from NOT_FOUND. -/
theorem notFoundIsFinalUntilReset : Obligations.NotFoundIsFinalUntilReset := by
  intro s t hs hinit h hreset
  obtain ⟨hbusy, hidle⟩ := initStateMovesByItsTable
  cases hb : s.busy with
  | false => exact (hidle s t hb h hreset).trans hinit
  | true => rw [hbusy s t hs hb h, hinit, initAfter_notFound, ite_self]

/-- Settles O56: the frame of every run, and INIT_STATE while it waits. -/
theorem frameOfProbeAndStart : Obligations.FrameOfProbeAndStart := by
  have waiting (i : Instr) (s : State) (hb : s.busy = true) (hbt : ((pseudocode s.cfg i).run s).busy = true) :=
    And.intro ((run_written s.cfg i hb).of_busy hbt) ((run_initCourse s.cfg i hb).of_busy hbt)
  refine ⟨fun s t h => ?_, fun s t h => ?_⟩ <;> rw [exec_eq_run] at h <;> cases h
  · obtain ⟨hcfg, hcmd, hsaved, hhost, -⟩ := run_kept s.cfg .probe s
    exact ⟨hcfg, hcmd, hhost, hsaved nofun, fun hb hbt => and_assoc.mp (waiting .probe s hb hbt)⟩
  · obtain ⟨hcfg, hcmd, -, hhost, -⟩ := run_kept s.cfg .start s
    exact ⟨hcfg, hcmd, hhost, fun hb hbt => and_assoc.mp (waiting .start s hb hbt)⟩

/-- Settles O44: the bytes written are 0, M with bit 7 clear and bit 4 set, M, and M with bits 5 and 7 set. -/
theorem bringUpKeepsTheBitsItDoesNotOwn : Obligations.BringUpKeepsTheBitsItDoesNotOwn := by
  rintro dev cfg m rfl
  refine ⟨0x00, sleepMode m, m, runMode m, rfl, rfl, rfl, rfl, rfl, fun i hi => ?_, rfl, ?_, ?_, ?_⟩
  · obtain rfl | rfl | rfl | rfl | rfl := hi <;> simp [sleepMode, runMode]
  all_goals simp [runMode]

end Sys2Proof.Machine
end

section
/-! CERTIFICATES. PROBE (43_device_init.md R161–R164) by the answers to its two transactions. -/

namespace Sys2Proof.Machine

open Sys2Proof.Claims

/-- A served command with one answer to come completes where its transaction is answered OK (R218). -/
theorem carryOn_completes (p : Pseudocode) {s : State} {inside : List Event} {q : Seq} {r : BusRequest} {a : BusAnswer}
    {got : List Byte} (hl : s.lockHeld = false) (x : InitState) (res : Word) (rest : List EnvMove)
    (hr : p.request (s.underLock inside q) = some r) (hgot : r.outcome a = some got)
    (ht : p.answered (some got) (s.underLock (inside ++ [.tx r (some got)]) q) =
      ((s.setInit x).underLock (inside ++ [.tx r (some got)]) q).unlock.complete res) :
    p.carryOn (.answer a :: rest) (s.underLock inside q) =
      { endedUnderLock s rest (inside ++ [.tx r (some got)]) (okSt s (opOf s.cmd)) res with initState := x } := by
  rw [carryOn_answer p rest hr hgot ht, State.complete_busy, if_neg Bool.false_ne_true,
    underLock_complete (s := s.setInit x) hl]
  rfl

theorem probeCode_run {s : State} {moves rest : List EnvMove} (hs : s.Accepted .probe) (hgate : s.initState ≠ .notFound)
    (henv : s.Served moves rest) : probeCode.run s = probeCode.carryOn (moves ++ rest) (s.underLock [] .probeWrite) :=
  probeCode.run_served hs henv (if_neg hgate) rfl

/-- The empty write answered FAIL: PROBE goes on to its fallback read. -/
theorem probe_write_fails {s : State} (hb : s.busy = true) (rest : List EnvMove) :
    probeCode.carryOn (.answer .fail :: rest) (s.underLock [] .probeWrite) =
      probeCode.carryOn rest (s.underLock [.tx (busWrite s.cfg.dev []) none] .probeRead) :=
  (carryOn_answer probeCode rest rfl rfl rfl).trans (if_pos hb)

/-- Settles O37: the gate first; then the empty write, and where it fails the read. -/
theorem probeByItsAnswers : Obligations.ProbeByItsAnswers := by
  intro s b rest junk hs
  have hop : opOf s.cmd = 0x5 := by rw [hs.latched]; exact opOf_packCmd ..
  refine ⟨fun hgate => ?_, fun hgate henv => ?_, fun hgate henv => ?_, fun hgate henv => ?_⟩
  · have hrun := run_of_gate_closed s.cfg (i := .probe) hs.atStart (by simp [gateOk, hgate])
    rw [exec_eq_run, hrun, raise_eq_endedAtOnce hs.unlocked, hop]
    rfl
  · rw [← hop]
    refine congrArg _ ((probeCode_run hs hgate henv).trans ?_)
    exact carryOn_completes probeCode hs.unlocked _ 0 rest rfl rfl (probeFound_eq 0 _)
  · rw [← hop]
    refine congrArg _ ((probeCode_run hs hgate henv).trans ((probe_write_fails hs.busy _).trans ?_))
    exact carryOn_completes probeCode hs.unlocked _ 1 rest rfl rfl (probeFound_eq 1 _)
  · exact probe_fails hs hgate henv rfl rfl

end Sys2Proof.Machine
end

section
/-! CERTIFICATES. START (43_device_init.md R168–R178) served and answered: the steps answered OK up to any one of them, and the
command's end there. -/

namespace Sys2Proof.Machine

open Sys2Proof.Claims

theorem bringUpRequest_eq_stepTx (cfg : Cfg) (m : Byte) (k : BringUpStep) :
    bringUpRequest cfg m k = stepTx cfg.dev cfg.params.prescaleVal m k := by
  cases k <;> rfl

theorem bringUpReg_eq (k : BringUpStep) : bringUpReg k = if k = .four then 0xFE else 0x00 := by
  cases k <;> rfl

/-- The state at bring-up step `k`, but for the lock hold: SAVED_MODE is the mode byte once step 1 has read it (R170). -/
def State.savedAt (s : State) (m : Byte) (k : BringUpStep) : State := s.saveMode (if k = .one then s.savedMode else m)

/-- START at bring-up step `k`, each step before it answered OK. -/
def State.atStep (s : State) (m : Byte) (k : BringUpStep) : State :=
  (s.savedAt m k).underLock (eventsBefore s.cfg.dev s.cfg.params.prescaleVal m k) (.bringUp k)

theorem request_atStep (s : State) (m : Byte) (k : BringUpStep) :
    startCode.request (s.atStep m k) = some (stepTx s.cfg.dev s.cfg.params.prescaleVal m k) := by
  cases k <;> rfl

/-- Step `k` answered OK, and START goes on. -/
theorem atStep_goesOn {s t : State} (hb : t.busy = true) {m : Byte} {a : BusAnswer} {got : List Byte} (k : BringUpStep)
    (rest : List EnvMove) (hgot : (stepTx s.cfg.dev s.cfg.params.prescaleVal m k).outcome a = some got)
    (ht : bringUpNext k got ((s.savedAt m k).underLock (eventsBefore s.cfg.dev s.cfg.params.prescaleVal m k ++
      [.tx (stepTx s.cfg.dev s.cfg.params.prescaleVal m k) (some got)]) (.bringUp k)) = t) :
    startCode.carryOn (.answer a :: rest) (s.atStep m k) = startCode.carryOn rest t :=
  (carryOn_answer startCode rest (request_atStep s m k) hgot ht).trans (if_pos hb)

/-- SETTLE_TIMER ends the settle wait, and START goes on to step 7 (R175). -/
theorem start_settles {s : State} (hb : s.busy = true) (inside : List Event) (rest : List EnvMove) :
    startCode.carryOn (.settle :: rest) (s.underLock inside .settle) =
      startCode.carryOn rest (s.underLock (inside ++ [.settleEnd]) (.bringUp .seven)) := by
  have hdeliver : startCode.deliver .settle (s.underLock inside .settle) =
      s.underLock (inside ++ [.settleEnd]) (.bringUp .seven) :=
    congrArg (State.goto (.bringUp .seven)) (underLock_record s inside .settle .settleEnd)
  rw [startCode.carryOn_cons (m := .settle) nofun, hdeliver]
  exact if_pos hb

/-- From the grant on, with BUS and SETTLE_TIMER serving the steps before it, START comes to step `k`. -/
theorem start_reaches {s : State} (hb : s.busy = true) (m : Byte) (junk : List Byte) (k : BringUpStep) (rest : List EnvMove) :
    startCode.carryOn (movesBefore m junk k ++ rest) (s.underLock [] (.bringUp .one)) =
      startCode.carryOn rest (s.atStep m k) := by
  have two (l : List EnvMove) := atStep_goesOn (t := s.atStep m .two) hb (a := .ok [m]) .one l rfl rfl
  have three (l : List EnvMove) := (two _).trans (atStep_goesOn (t := s.atStep m .three) hb (a := .ok junk) .two l rfl rfl)
  have four (l : List EnvMove) := (three _).trans (atStep_goesOn (t := s.atStep m .four) hb (a := .ok junk) .three l rfl rfl)
  have five (l : List EnvMove) := (four _).trans (atStep_goesOn (t := s.atStep m .five) hb (a := .ok junk) .four l rfl rfl)
  cases k with
  | one => rfl
  | two => exact two rest
  | three => exact three rest
  | four => exact four rest
  | five => exact five rest
  | seven =>
    refine (five _).trans ((atStep_goesOn ?_ .five _ rfl (congrArg (State.goto .settle) (underLock_record ..))).trans ?_)
    · exact hb
    · exact start_settles (s := s.saveMode m) hb _ rest

/-- A served START comes to step `k`, in each state that admits it. -/
theorem startCode_run {s : State} {m : Byte} {k : BringUpStep} {junk : List Byte} {a : BusAnswer} {rest : List EnvMove}
    (hs : s.Accepted .start) (hgate : s.initState = .present ∨ s.initState = .running ∨ s.initState = .startFailed)
    (henv : s.Served (movesBefore m junk k ++ [.answer a]) rest) :
    startCode.run s = startCode.carryOn (.answer a :: rest) (s.atStep m k) := by
  have hallowed : startAllowed s.initState = true := by
    obtain h | h | h := hgate <;> rw [h] <;> rfl
  rw [startCode.run_served hs henv (if_pos hallowed) rfl, List.append_assoc]
  exact start_reaches hs.busy m junk k _

/-- Settles O38: START comes to step 7, and step 7 is answered OK. -/
theorem startRunsTheBringUp : Obligations.StartRunsTheBringUp := by
  intro s m rest junk hs hgate henv
  have hop : opOf s.cmd = 0x6 := by rw [hs.latched]; exact opOf_packCmd ..
  rw [← hop]
  refine congrArg _ ((startCode_run hs hgate henv).trans ?_)
  exact carryOn_completes startCode (s := s.saveMode m) hs.unlocked .running _ rest (request_atStep s m .seven) rfl rfl

/-- Settles O39: START comes to step `k`, and step `k` is answered FAIL. -/
theorem startStopsAtTheFirstFailure : Obligations.StartStopsAtTheFirstFailure := by
  intro s k m rest junk hs hgate henv
  have hop : opOf s.cmd = 0x6 := by rw [hs.latched]; exact opOf_packCmd ..
  rw [← hop, ← bringUpReg_eq]
  refine congrArg _ ((startCode_run hs hgate henv).trans ?_)
  exact carryOn_fails startCode (s := s.savedAt m k) hs.unlocked .startFailed
    (busIo k.number (bringUpReg k) s.cfg.dev) rest (request_atStep s m k) rfl rfl

end Sys2Proof.Machine
end

section
/-! SUPPORT. The history of a START over any number of moves (43_device_init.md R168, R179): Accept comes from acceptance only, the
transactions so far are those of the bring-up steps before its point, and what held of each transaction recorded still does. -/

namespace Sys2Proof.Machine

open Sys2Proof.Claims

/-! ### Accept events (R60, R83) -/

/-- The words accepted in a list of events. -/
def acceptsOf : List Event → List CmdWord
  | [] => []
  | .accept w :: es => w :: acceptsOf es
  | _ :: es => acceptsOf es

@[simp] theorem acceptsOf_append (a b : List Event) : acceptsOf (a ++ b) = acceptsOf a ++ acceptsOf b := by
  induction a with
  | nil => rfl
  | cons e es ih => cases e <;> simp [acceptsOf, ih]

/-- Without an Accept the events go on with the command that runs. -/
theorem commandFrom_of_no_accept {es : List Event} (h : acceptsOf es = [])
    (c : Option CmdWord × List (BusRequest × Option (List Byte))) : commandFrom c es = (c.1, c.2 ++ txsOf es) := by
  induction es generalizing c with
  | nil => simp [commandFrom, txsOf]
  | cons e es ih =>
    cases e with
    | accept w => simp [acceptsOf] at h
    | tx r got => simp [commandFrom, txsOf, ih h]
    | _ => exact ih h c

theorem acceptsOf_raise (e : ErrInfo) (s : State) : acceptsOf (s.raise e).history = acceptsOf s.history := by
  cases h : s.lockHeld <;> simp [h, acceptsOf]

theorem FirstStep.acceptsOf_eq {i : Instr} {s t : State} (h : FirstStep i s t) :
    acceptsOf t.history = acceptsOf s.history := by
  cases h with
  | locks => rfl
  | completes _ res => simp [acceptsOf]
  | raises e => exact acceptsOf_raise e s

theorem AnswerStep.acceptsOf_eq {i : Instr} {got : Option (List Byte)} {s t : State} (h : AnswerStep i got s t) :
    acceptsOf t.history = acceptsOf s.history := by
  cases h with
  | goes | savesMode => rfl
  | waits => simp [acceptsOf]
  | completes x res => simp [acceptsOf]
  | raises x e => exact acceptsOf_raise e (s.setInit x)

theorem deliver_acceptsOf (cfg : Cfg) (i : Instr) (m : EnvMove) (s : State) :
    acceptsOf ((pseudocode cfg i).deliver m s).history = acceptsOf s.history := by
  obtain h | ⟨-, h⟩ | ⟨-, h⟩ | ⟨-, -, -, h⟩ | ⟨a, r, -, hr, h⟩ | ⟨-, -, h⟩ := (pseudocode cfg i).deliver_cases m s <;>
    rw [h]
  · rfl
  · rfl
  · obtain ⟨q, -, -, hg⟩ | ⟨-, hg⟩ := granted_step cfg i s.takeLock <;> rw [hg] <;> simp [acceptsOf]
  · rw [(answered_step hr (State.record_seq s _) _).acceptsOf_eq]
    simp [acceptsOf]
  · obtain ⟨-, hg⟩ | ⟨-, hg⟩ := settled_step cfg i (s.record .settleEnd) <;> rw [hg] <;> simp [acceptsOf]

theorem run_acceptsOf (cfg : Cfg) (i : Instr) (s : State) :
    acceptsOf ((pseudocode cfg i).run s).history = acceptsOf s.history :=
  Pseudocode.run_keeps_always _ (P := fun t => acceptsOf t.history = acceptsOf s.history) s
    (fun _ => (first_step cfg i s).acceptsOf_eq) rfl (fun m u h => (deliver_acceptsOf cfg i m u).trans h) (fun _ _ h => h)

/-- The events a step of a running block adds hold no Accept. -/
theorem step_adds {s t : State} (hb : s.busy = true) (h : step s = .next t) :
    ∃ es, t.history = s.history ++ es ∧ acceptsOf es = [] := by
  obtain ⟨es, hes⟩ := (step_of_busy hb h).1.history
  refine ⟨es, hes.symm, ?_⟩
  have hacc : acceptsOf t.history = acceptsOf s.history := by
    obtain ⟨i, -, -, rfl⟩ | ⟨e, -, -, rfl⟩ | ⟨hidle, -⟩ := step_cases h
    · exact run_acceptsOf s.cfg i s
    · exact acceptsOf_raise illegalCmd s
    · simp [hb] at hidle
  simpa [← hes] using hacc

/-! ### What holds of each transaction in a list of events -/

/-- `Q` holds of each transaction in `es`, with the events before it in `es`. -/
def EachTx (Q : List Event → BusRequest → Prop) (es : List Event) : Prop :=
  ∀ before after r got, es = before ++ .tx r got :: after → Q before r

namespace EachTx

variable {Q : List Event → BusRequest → Prop} {a b : List Event}

theorem of_no_tx (h : txsOf a = []) : EachTx Q a := by
  rintro before after r got rfl
  simp [txsOf] at h

theorem append (ha : EachTx Q a) (hb : EachTx (fun before r => Q (a ++ before) r) b) : EachTx Q (a ++ b) := by
  intro before after r got h
  obtain ⟨more, rfl, hmore⟩ | ⟨more, rfl, hmore⟩ := List.append_eq_append_iff.mp h
  · exact hb _ _ _ _ hmore
  · cases more with
    | nil =>
      simp only [List.nil_append] at hmore
      simpa using hb [] after r got hmore.symm
    | cons e more =>
      obtain ⟨rfl, -⟩ := List.cons.inj hmore
      exact ha before more r got rfl

/-- A transaction, with no other after it. -/
theorem cons {r : BusRequest} (hr : Q [] r) (got : Option (List Byte)) (h : txsOf a = []) : EachTx Q (.tx r got :: a) := by
  refine append (a := [.tx r got]) (fun before after r' got' heq => ?_) (of_no_tx h)
  cases before with
  | nil => cases heq; exact hr
  | cons => simp at heq

theorem mono {Q' : List Event → BusRequest → Prop} (h : EachTx Q a) (himp : ∀ before r, Q before r → Q' before r) :
    EachTx Q' a :=
  fun before after r got heq => himp before r (h before after r got heq)

end EachTx

/-! ### START's transactions (R168, R179) -/

/-- The transactions of a START before its point: those of the bring-up steps done. -/
def bringUpTxs (s : State) : List (BusRequest × Option (List Byte)) :=
  match s.seq with
  | .bringUp k => txsBefore s.cfg.dev s.cfg.params.prescaleVal s.savedMode k
  | .settle => txsBefore s.cfg.dev s.cfg.params.prescaleVal s.savedMode .seven
  | _ => []

/-- Where `r` is a PRESCALE write, it is R179's: it carries PRESCALE_VAL, and `txs` put the chip to sleep. -/
def PrescaleUnderSleep (cfg : Cfg) (txs : List (BusRequest × Option (List Byte))) (r : BusRequest) : Prop :=
  ∀ ps, r.out = 0xFE :: ps → ps = [BitVec.ofNat 8 cfg.params.prescaleVal] ∧ sleepsAfterRead cfg.dev txs

/-- Of the bring-up's transactions step 4's alone writes PRESCALE, and steps 1 to 3 come before it. -/
theorem bringUpRequest_underSleep (cfg : Cfg) (m : Byte) (k : BringUpStep) :
    PrescaleUnderSleep cfg (txsBefore cfg.dev cfg.params.prescaleVal m k) (bringUpRequest cfg m k) := by
  rw [bringUpRequest_eq_stepTx]
  intro ps hout
  cases k with
  | four => exact ⟨(List.cons.inj hout).2.symm, m, by simp, rfl⟩
  | one | two | three | five | seven => exact absurd (List.cons.inj hout).1 (by decide)

/-- What a START records on its way from `s` to `t`: while it runs, the transactions up to its point, and every PRESCALE write is
R179's. -/
def BringUpCourse (s t : State) : Prop :=
  ∃ es, t.history = s.history ++ es ∧ (t.busy = true → bringUpTxs s ++ txsOf es = bringUpTxs t) ∧
    EachTx (fun before r => PrescaleUnderSleep s.cfg (bringUpTxs s ++ txsOf before) r) es

namespace BringUpCourse

variable {s t u : State}

/-- No transaction is recorded. -/
theorem quiet (hprefix : s.history <+: t.history) (htxs : txsOf t.history = txsOf s.history)
    (hpoint : t.busy = true → bringUpTxs s = bringUpTxs t) : BringUpCourse s t := by
  obtain ⟨es, hes⟩ := hprefix
  have hno : txsOf es = [] := by simpa [← hes] using htxs
  exact ⟨es, hes.symm, by simpa [hno] using hpoint, .of_no_tx hno⟩

/-- Carried on from a state in which START still ran. -/
theorem trans (h : BringUpCourse s u) (hcfg : u.cfg = s.cfg) (hb : u.busy = true) (h' : BringUpCourse u t) :
    BringUpCourse s t := by
  obtain ⟨es, hes, hu, hsleep⟩ := h
  obtain ⟨es', hes', ht, hsleep'⟩ := h'
  rw [← hu hb] at ht hsleep'
  rw [hcfg] at hsleep'
  refine ⟨es ++ es', by rw [hes', hes, List.append_assoc], by simpa using ht, hsleep.append (hsleep'.mono fun before r h => ?_)⟩
  simpa using h

end BringUpCourse

/-- A write answered OK returns no byte. -/
theorem outcome_write {r : BusRequest} {a : BusAnswer} {bytes : List Byte} (hr : r.kind = .write)
    (h : r.outcome a = some bytes) : bytes = [] := by
  cases a <;> simp_all [BusRequest.outcome]

/-- A read answered OK returns as many bytes as it asked for (R57). -/
theorem outcome_read {r : BusRequest} {a : BusAnswer} {bytes : List Byte} (hr : r.kind ≠ .write)
    (h : r.outcome a = some bytes) : bytes.length = r.n := by
  cases a with
  | fail => cases h
  | ok got =>
    cases hk : r.kind with
    | write => exact absurd hk hr
    | writeRead | read =>
      obtain ⟨hlen, rfl⟩ : got.length = r.n ∧ got = bytes := by simpa [BusRequest.outcome, hk] using h
      exact hlen

/-- An answer OK to a step's transaction brings START to where that transaction is the last one done. -/
theorem bringUpNext_txs {s : State} {k : BringUpStep} {a : BusAnswer} {bytes : List Byte} {e : Event} (hseq : s.seq = .bringUp k)
    (hgot : (bringUpRequest s.cfg s.savedMode k).outcome a = some bytes)
    (hb : (bringUpNext k bytes (s.record e)).busy = true) :
    bringUpTxs s ++ [(bringUpRequest s.cfg s.savedMode k, some bytes)] = bringUpTxs (bringUpNext k bytes (s.record e)) := by
  simp only [bringUpTxs, hseq]
  cases k with
  | one =>
    obtain ⟨m, rfl⟩ := List.length_eq_one_iff.mp (outcome_read (show TxKind.writeRead ≠ .write from nofun) hgot)
    rfl
  | two | three | four | five => rw [outcome_write rfl hgot]; rfl
  | seven => simp [bringUpNext] at hb

/-- The answer START waits for: its transaction comes first, and the internal step after it records no other. -/
theorem start_answer_course {s : State} {k : BringUpStep} (hseq : s.seq = .bringUp k) {r : BusRequest} (a : BusAnswer)
    (hr : r = bringUpRequest s.cfg s.savedMode k) :
    BringUpCourse s (startAnswered (r.outcome a) (s.record (.tx r (r.outcome a)))) := by
  have hat : (s.record (.tx r (r.outcome a))).seq = .bringUp k := hseq
  have hstep := startAnswered_step hat (r.outcome a)
  obtain ⟨es, hes⟩ := hstep.kept.history
  have hno : txsOf es = [] := by simpa only [← hes, txsOf_append, List.append_right_eq_self] using hstep.txsOf_eq
  refine ⟨.tx r (r.outcome a) :: es, by simp [← hes], fun hb => ?_, .cons ?_ _ hno⟩
  · subst hr
    cases hgot : (bringUpRequest s.cfg s.savedMode k).outcome a with
    | none => simp [hgot, startAnswered, hseq, bringUpFail] at hb
    | some bytes =>
      simp only [hgot, startAnswered, State.record_seq, hseq] at hb ⊢
      simpa [txsOf, hno] using bringUpNext_txs hseq hgot hb
  · subst hr
    simpa [txsOf, bringUpTxs, hseq] using bringUpRequest_underSleep s.cfg s.savedMode k

theorem start_deliver_course (m : EnvMove) (s : State) : BringUpCourse s (startCode.deliver m s) := by
  obtain h | ⟨-, h⟩ | ⟨-, h⟩ | ⟨-, hseq, -, h⟩ | ⟨a, r, -, hr, h⟩ | ⟨-, hseq, h⟩ := startCode.deliver_cases m s <;>
    rw [h]
  · exact .quiet List.prefix_rfl rfl fun _ => rfl
  · exact .quiet List.prefix_rfl rfl fun _ => rfl
  · exact .quiet List.prefix_rfl rfl fun _ => rfl
  · exact .quiet (List.prefix_append _ _) (by simp [startCode, txsOf]) fun _ => by simp only [bringUpTxs, hseq]; rfl
  · obtain ⟨ht, -⟩ | ⟨ht, -⟩ | ⟨-, k, hseq⟩ := request_point (cfg := s.cfg) (i := .start) hr
    · exact ht.elim
    · cases ht
    · simp only [startCode, hseq, Option.some.injEq] at hr
      exact start_answer_course hseq a hr.symm
  · exact .quiet (List.prefix_append _ _) (by simp [startCode, txsOf]) fun _ => by simp only [bringUpTxs, hseq]; rfl

/-- START's first internal step records no transaction. -/
theorem start_first_course {s : State} (hstart : s.seq = .start) : BringUpCourse s (startCode.first s) := by
  have h : FirstStep .start s (startCode.first s) := first_step s.cfg .start s
  refine .quiet h.kept.history h.txsOf_eq ?_
  generalize startCode.first s = t at h
  cases h with
  | locks => exact fun _ => by simp only [bringUpTxs, hstart, State.goto_seq]
  | completes => exact nofun
  | raises e => exact fun hb => by simp at hb

theorem start_run_course {s : State} (hb : s.busy = true) : BringUpCourse s (startCode.run s) :=
  (startCode.run_keeps (P := fun t => Kept (.ok .start) s t ∧ BringUpCourse s t) s hb
    (fun hstart => ⟨(first_step s.cfg .start s).kept, start_first_course hstart⟩)
    (fun _ => ⟨.refl s, .quiet List.prefix_rfl rfl fun _ => rfl⟩)
    (fun m u hu ⟨hk, h⟩ => ⟨hk.trans (deliver_kept s.cfg .start m u), h.trans hk.cfg hu (start_deliver_course m u)⟩)
    (fun l _ ⟨hk, h⟩ => ⟨hk.setEnv l, h⟩)).2

end Sys2Proof.Machine
end

section
/-! CERTIFICATES. PRESCALE is written under the sleep bit (43_device_init.md R179): in the step that begins a START, and, as the
invariant BringUpTrace, over every step. -/

namespace Sys2Proof.Machine

open Sys2Proof.Claims

/-- Where the events before `r` have a START as the command that runs, `r` is as R179 has it. -/
def StartUnderSleep (cfg : Cfg) (before : List Event) (r : BusRequest) : Prop :=
  ∀ w, (commandOf before).1 = some w → decode w = .ok .start → PrescaleUnderSleep cfg (commandOf before).2 r

section Trace

variable {s : State}

theorem bringUpTrace_eachTx (h : BringUpTrace s) : EachTx (StartUnderSleep s.cfg) s.history :=
  fun before after r got heq w hw hd ps hout => h.underSleep before after r got ps w heq hout hw hd

/-- A START that runs has issued the transactions before its point. -/
theorem bringUpTrace_txs (h : BringUpTrace s) (hs : s.Inv) (hb : s.busy = true) (hd : decode s.cmd = .ok .start) :
    (commandOf s.history).2 = bringUpTxs s := by
  have hfits := hs.fits hd (hs.busy_iff.mp hb)
  unfold bringUpTxs
  cases hseq : s.seq with
  | idle => exact absurd hseq (hs.busy_iff.mp hb)
  | start => exact h.before hd (.inl hseq)
  | lock => exact h.before hd (.inr hseq)
  | bringUp k => exact h.soFar k hd hseq
  | settle => exact h.atSettle hd hseq
  | access | probeWrite | probeRead => simp [hseq, seqFits] at hfits

/-- The trace from its parts, in a state that meets the invariant. -/
theorem bringUpTrace_of_parts (hs : s.Inv) (haccepted : s.busy = true → (commandOf s.history).1 = some s.cmd)
    (htxs : s.busy = true → decode s.cmd = .ok .start → (commandOf s.history).2 = bringUpTxs s)
    (heach : EachTx (StartUnderSleep s.cfg) s.history) : BringUpTrace s := by
  have txsAt {q : Seq} (hseq : s.seq = q) (hq : q ≠ .idle) (hd : decode s.cmd = .ok .start) :=
    htxs (hs.busy_iff.mpr (hseq ▸ hq)) hd
  exact
    { accepted := haccepted
      before := fun hd hseq => by
        obtain hseq | hseq := hseq <;> rw [txsAt hseq nofun hd, bringUpTxs, hseq]
      soFar := fun k hd hseq => by rw [txsAt hseq nofun hd, bringUpTxs, hseq]
      atSettle := fun hd hseq => by rw [txsAt hseq nofun hd, bringUpTxs, hseq]
      underSleep := fun before after r got ps w heq hout hw hd => heach before after r got heq w hw hd ps hout }

/-- It does not look at what is outside the block. -/
theorem bringUpTrace_outside (h : BringUpTrace s) (rest : List HostMove) (l : List EnvMove) (b : Bool) :
    BringUpTrace { s with hostQueue := rest, env := l, otherHolds := b } :=
  ⟨h.accepted, h.before, h.soFar, h.atSettle, h.underSleep⟩

/-- Acceptance begins a command without transactions. -/
theorem bringUpTrace_accept (h : BringUpTrace s) (hs : s.Inv) (hb : s.busy = false) (w : CmdWord) : BringUpTrace (s.accept w) := by
  have hcommand : commandOf (s.accept w).history = (some w, []) := by rw [State.accept_history, commandOf_append]; rfl
  exact bringUpTrace_of_parts (hs.accept hb w) (fun _ => by rw [hcommand]; rfl) (fun _ _ => by rw [hcommand]; rfl)
    ((bringUpTrace_eachTx h).append (.of_no_tx rfl))

end Trace

theorem step_start_course {s t : State} (hb : s.busy = true) (hd : decode s.cmd = .ok .start) (h : step s = .next t) :
    BringUpCourse s t := by
  obtain ⟨i, -, hi, rfl⟩ | ⟨e, -, he, rfl⟩ | ⟨hidle, -⟩ := step_cases h
  · cases hd.symm.trans hi
    exact start_run_course hb
  · simp [hd] at he
  · simp [hb] at hidle

/-- A step of a running block adds to the transactions of its command, and PRESCALE is written by START under the sleep bit. -/
theorem busy_step_trace {s t : State} (hs : s.Inv) (htrace : BringUpTrace s) (hb : s.busy = true) (h : step s = .next t) :
    BringUpTrace t := by
  obtain ⟨hcfg, hcmd, -⟩ := (step_of_busy hb h).1
  obtain ⟨es, hes, hno⟩ := step_adds hb h
  have hcommand {es' : List Event} (hno' : acceptsOf es' = []) :
      commandOf (s.history ++ es') = (some s.cmd, (commandOf s.history).2 ++ txsOf es') := by
    rw [commandOf_append, commandFrom_of_no_accept hno', htrace.accepted hb]
  have hstart (hd : decode s.cmd = .ok .start) : (t.busy = true → (commandOf s.history).2 ++ txsOf es = bringUpTxs t) ∧
      EachTx (fun before r => PrescaleUnderSleep s.cfg ((commandOf s.history).2 ++ txsOf before) r) es := by
    obtain ⟨es', hes', hpoint, hsleep⟩ := step_start_course hb hd h
    cases List.append_cancel_left (hes.symm.trans hes')
    rw [bringUpTrace_txs htrace hs hb hd]
    exact ⟨hpoint, hsleep⟩
  refine bringUpTrace_of_parts (stepKeepsInvariant s t hs h) (fun _ => ?_) (fun hbt hd => ?_) ?_ <;> rw [hes]
  · rw [hcommand hno, hcmd]
  · rw [hcommand hno]
    exact (hstart (hcmd ▸ hd)).1 hbt
  · rw [hcfg]
    refine (bringUpTrace_eachTx htrace).append fun before after r got heq w hw hd => ?_
    rw [heq, acceptsOf_append, List.append_eq_nil_iff] at hno
    rw [hcommand hno.1] at hw ⊢
    cases hw
    exact (hstart hd).2 before after r got heq

/-- Settles O43: in a run of START only step 4 writes PRESCALE, after the steps before it; the history of every START keeps that. -/
theorem prescaleIsWrittenUnderSleep : Obligations.PrescaleIsWrittenUnderSleep := by
  refine ⟨fun s t before after r got ps hs hexec hhist hout => ?_, fun s t hs htrace h => ?_⟩
  · rw [exec_eq_run] at hexec
    cases hexec
    obtain ⟨es, hes, -, hsleep⟩ := start_run_course hs.busy
    have hnone : bringUpTxs s = [] := by rw [bringUpTxs, hs.atStart]
    simpa [hnone] using hsleep before after r got (List.append_cancel_left (hes.symm.trans hhist)) ps hout
  · cases hb : s.busy with
    | true => exact busy_step_trace hs htrace hb h
    | false =>
      obtain ⟨w, rest, rfl⟩ | ⟨-, rest, rfl⟩ | ⟨rest, l, b, rfl⟩ := step_of_idle hb h
      · exact bringUpTrace_outside (bringUpTrace_accept htrace hs hb w) rest s.env s.otherHolds
      · exact bringUpTrace_outside (bringUpTrace_resetWith s.cfg) rest s.env s.otherHolds
      · exact bringUpTrace_outside htrace rest l b

end Sys2Proof.Machine
end

section
/-! CERTIFICATES. The host's controllers (45_host_commands.md R190–R197): exact fractions as rationals, the quantization, the range
check, and the SEND of each call. -/

namespace Sys2Proof.Machine

open Sys2Proof.Claims

/-! ### Exact fractions (R190) -/

namespace Frac

section Values

variable {a b : Frac}

@[simp] theorem val_mk (n : Int) (d : Nat) : val ⟨n, d⟩ = (n : ℚ) / (d : ℚ) := rfl

@[simp] theorem val_whole (n : Int) : val (whole n) = n := by simp [whole]

@[simp] theorem val_mul (a b : Frac) : val (a.mul b) = val a * val b := by
  simp [mul, val, div_mul_div_comm]

@[simp] theorem val_neg (a : Frac) : val a.neg = -val a := by simp [neg, val, neg_div]

theorem val_add (ha : 1 ≤ a.den) (hb : 1 ≤ b.den) : val (a.add b) = val a + val b := by
  have ha' : (a.den : ℚ) ≠ 0 := Nat.cast_ne_zero.mpr (Nat.ne_of_gt ha)
  have hb' : (b.den : ℚ) ≠ 0 := Nat.cast_ne_zero.mpr (Nat.ne_of_gt hb)
  simp [add, val, div_add_div _ _ ha' hb', mul_comm]

theorem one_le_den_add (ha : 1 ≤ a.den) (hb : 1 ≤ b.den) : 1 ≤ (a.add b).den := Nat.mul_pos ha hb

theorem one_le_den_mul (ha : 1 ≤ a.den) (hb : 1 ≤ b.den) : 1 ≤ (a.mul b).den := Nat.mul_pos ha hb

/-- With a positive denominator the comparisons of numerators are those of the values. -/
theorem within_iff (ha : 1 ≤ a.den) (hi : Nat) : a.within hi = true ↔ 0 ≤ val a ∧ val a ≤ hi := by
  have hpos : (0 : ℚ) < a.den := Nat.cast_pos.mpr ha
  rw [val, le_div_iff₀ hpos, div_le_iff₀ hpos, zero_mul, within, Bool.and_eq_true, decide_eq_true_eq, decide_eq_true_eq]
  norm_cast

/-- The integer division of `q` is the floor of the exact value, both sides being over the denominator `2 * den` (R190). -/
theorem q_eq_floor (ha : 1 ≤ a.den) : a.q = ⌊val a * 65536 + 1 / 2⌋ := by
  have hpos : (0 : ℚ) < a.den := Nat.cast_pos.mpr ha
  have hquot : val a * 65536 + 1 / 2 = ((2 * a.num * 65536 + a.den : Int) : ℚ) / ((2 * a.den : Nat) : ℚ) := by
    rw [val]
    push_cast
    field_simp
  rw [hquot, Rat.floor_intCast_div_natCast, q]
  norm_cast

theorem u32_q (ha : 1 ≤ a.den) : u32 a.q = quantized (val a) := by rw [q_eq_floor ha, u32, quantized]

end Values

end Frac

/-- Settles O58: the integer division is the floor of the exact quotient. -/
theorem quantizationRoundsToNearest : Obligations.QuantizationRoundsToNearest := fun _ => Frac.q_eq_floor

/-! ### Controller calls (R191–R197) -/

/-- A call with the operand `a`: the SEND where `a` is within [0, hi], InvalidRange elsewhere (R191, R192, R195, R196, R204). -/
theorem rangeCheck_eq {a : Frac} (ha : 1 ≤ a.den) (hi : Nat) (i : Instr) :
    (if a.within hi then .ok i else .error .invalidRange : Except HostError Instr) =
      if 0 ≤ val a ∧ val a ≤ hi then .ok i else .error .invalidRange := by
  simp only [Frac.within_iff ha]

/-- A trimmed force as the pedal sends it (R195, R196). -/
theorem u32_q_pedalValue {f : Frac} (hf : 1 ≤ f.den) : u32 (pedalValue f).q = quantized ((val f + 1) * (1 / 2)) := by
  have hden : 1 ≤ (f.add (.whole 1)).den := Frac.one_le_den_add hf (le_refl 1)
  rw [pedalValue, Frac.u32_q (Frac.one_le_den_mul hden (by decide)), Frac.val_mul, Frac.val_add hf (le_refl 1)]
  simp

section Calls

variable {a : Frac} (ha : 1 ≤ a.den)
include ha

theorem instr_left : (ControllerCall.left a).instr =
    if 0 ≤ val a ∧ val a ≤ 90 then .ok (.send 0 (quantized ((val a + 90) / 180))) else .error .invalidRange := by
  have hden : 1 ≤ (a.add (.whole 90)).den := Frac.one_le_den_add ha (le_refl 1)
  rw [ControllerCall.instr, rangeCheck_eq ha, Frac.u32_q (Frac.one_le_den_mul hden (by decide)), Frac.val_mul,
    Frac.val_add ha (le_refl 1)]
  simp [div_eq_mul_inv]

theorem instr_right : (ControllerCall.right a).instr =
    if 0 ≤ val a ∧ val a ≤ 90 then .ok (.send 0 (quantized (val a / 180))) else .error .invalidRange := by
  rw [ControllerCall.instr, rangeCheck_eq ha, Frac.u32_q (Frac.one_le_den_mul ha (by decide)), Frac.val_mul]
  simp [div_eq_mul_inv]

theorem instr_forward : (ControllerCall.forward a).instr =
    if 0 ≤ val a ∧ val a ≤ 1 then .ok (.send 1 (quantized (((val a + 6 / 1000) + 1) * (1 / 2))))
    else .error .invalidRange := by
  have hb : 1 ≤ (⟨6, 1000⟩ : Frac).den := by decide
  rw [ControllerCall.instr, rangeCheck_eq ha, u32_q_pedalValue (Frac.one_le_den_add ha hb), Frac.val_add ha hb]
  simp

theorem instr_backward : (ControllerCall.backward a).instr =
    if 0 ≤ val a ∧ val a ≤ 1 then .ok (.send 1 (quantized (((-val a - 13 / 100) + 1) * (1 / 2))))
    else .error .invalidRange := by
  have hb : 1 ≤ (⟨-130, 1000⟩ : Frac).den := by decide
  have htrim : -val a + val ⟨-130, 1000⟩ = -val a - 13 / 100 := by norm_num [sub_eq_add_neg]
  rw [ControllerCall.instr, rangeCheck_eq ha, u32_q_pedalValue (Frac.one_le_den_add (a := a.neg) ha hb),
    Frac.val_add (a := a.neg) ha hb, Frac.val_neg, htrim, Nat.cast_one]

end Calls

/-- Settles O59: each call is its range check and its SEND; NEUTRAL has no operand. -/
theorem steeringCallsSendTheirAngles : Obligations.SteeringCallsSendTheirAngles := by
  refine ⟨fun a ha hout => ?_, fun a ha h0 h90 => ?_, rfl⟩ <;> rw [instr_left ha, instr_right ha]
  · rw [← not_le, ← not_le, ← not_and_or] at hout
    exact ⟨if_neg hout, if_neg hout⟩
  · exact ⟨if_pos ⟨h0, h90⟩, if_pos ⟨h0, h90⟩⟩

/-- Settles O60: each call is its range check and its SEND of the trimmed force; BRAKE has no operand. -/
theorem pedalCallsSendTheirForces : Obligations.PedalCallsSendTheirForces := by
  refine ⟨fun f hf hout => ?_, fun f hf h0 h1 => ?_, rfl⟩ <;> rw [instr_forward hf, instr_backward hf]
  · rw [← not_le, ← not_le, ← not_and_or] at hout
    exact ⟨if_neg hout, if_neg hout⟩
  · exact ⟨if_pos ⟨h0, h1⟩, if_pos ⟨h0, h1⟩⟩

end Sys2Proof.Machine
end

section
/-! CERTIFICATES. Errors (60_exceptions.md R210–R212, R226): a step always has a next state, an illegal word ends at once, and
SEQ_ERROR comes from a closed gate and from nothing else. -/

namespace Sys2Proof.Machine

open Sys2Proof.Claims

/-- Settles O11: a legal word runs its command's pseudocode, an illegal one is reported in STATUS, and a block at rest has its idle
step. -/
theorem everyStepHasANextState : Obligations.EveryStepHasANextState := by
  intro s
  unfold step
  split
  · split
    · exact ⟨_, exec_eq_run _ s⟩
    · exact ⟨_, rfl⟩
  · exact ⟨_, rfl⟩

/-- Settles O9: the step is error entry with ILLEGAL_CMD, and the lock was not held. -/
theorem illegalWordEndsAtOnce : Obligations.IllegalWordEndsAtOnce := by
  intro s e hb _ hl he
  simp only [step, hb, he, if_true, State.completeIllegal, raise_eq_endedAtOnce hl]
  rfl

/-! ### The two gates (R212) -/

theorem gateOk_eq_false_iff {i : Instr} {x : InitState} : gateOk i x = false ↔
    (i = .probe ∧ x = .notFound) ∨ (i = .start ∧ (x = .unprobed ∨ x = .notFound)) := by
  obtain ⟨k, v, rfl⟩ | hi | rfl | rfl := instr_kinds i
  · simp [gateOk]
  · rw [oneTransaction_gate hi]
    cases i <;> simp_all [oneTransaction]
  · simp [gateOk]
  · cases x <;> simp [gateOk, startAllowed]

/-- The invariant has the gate open past the start, so a command behind a closed one has not begun. -/
theorem State.Inv.atStart_of_gate_closed {s : State} (hs : s.Inv) (hb : s.busy = true) {i : Instr}
    (hi : decode s.cmd = .ok i) (hgate : gateOk i s.initState = false) : s.seq = .start := by
  by_contra hne
  have hopen := (hs.fits hi (hs.busy_iff.mp hb) hne).2
  simp [hopen] at hgate

theorem exec_of_gate_closed {i : Instr} {s : State} (hs : s.Accepted i) (hgate : gateOk i s.initState = false) :
    exec i s = .next (endedAtOnce s (errSt (opOf (encode i)) .seqError 0 0 0) s.result) := by
  rw [exec_eq_run, run_of_gate_closed s.cfg hs.atStart hgate, raise_eq_endedAtOnce hs.unlocked, hs.latched]
  rfl

/-! ### No other SEQ_ERROR (R212) -/

/-- It still runs, or has ended with another code than SEQ_ERROR. -/
def RunsOrEndsOtherwise (t : State) : Prop := t.busy = true ∨ codeOf t.status ≠ Code.seqError.bits

theorem complete_endsOtherwise (res : Word) (s : State) : RunsOrEndsOtherwise (s.complete res) :=
  .inr (by simp [okStatus, Code.bits])

theorem raise_endsOtherwise {e : ErrInfo} (he : e.code ≠ .seqError) (s : State) : RunsOrEndsOtherwise (s.raise e) := by
  refine .inr ?_
  rw [State.raise_status, errorStatus_eq, codeOf_statusWord]
  cases hc : e.code with
  | seqError => exact absurd hc he
  | _ => decide

theorem RaisedBy.code_ne_seqError {cfg : Cfg} {i : Instr} {e : ErrInfo} (h : RaisedBy cfg (.ok i) e)
    (hi : oneTransaction i) : e.code ≠ .seqError := by
  cases h with
  | probeGate | startGate => exact hi.elim
  | _ => exact nofun

theorem FirstStep.endsOtherwise {i : Instr} {s t : State} (h : FirstStep i s t) (hi : oneTransaction i)
    (hb : s.busy = true) : RunsOrEndsOtherwise t := by
  cases h with
  | locks => exact .inl hb
  | completes _ res => exact complete_endsOtherwise res s
  | raises e he => exact raise_endsOtherwise (he.code_ne_seqError hi) s

/-- Through an open gate the first internal step is one to `Lock()`, but for CONVERT and the range check of SEND. -/
theorem first_endsOtherwise (cfg : Cfg) {i : Instr} {s : State} (hb : s.busy = true)
    (hgate : gateOk i s.initState = true) : RunsOrEndsOtherwise ((pseudocode cfg i).first s) := by
  obtain ⟨k, v, rfl⟩ | hi | rfl | rfl := instr_kinds i
  · exact complete_endsOtherwise _ s
  · exact (first_step cfg i s).endsOtherwise hi hb
  · have hlock : probeCode.first s = s.goto .lock := if_neg (by simpa [gateOk] using hgate)
    exact .inl (hlock ▸ hb)
  · have hlock : startCode.first s = s.goto .lock := if_pos hgate
    exact .inl (hlock ▸ hb)

theorem probeAnswered_endsOtherwise (got : Option (List Byte)) {s : State} (hb : s.busy = true) :
    RunsOrEndsOtherwise (probeAnswered got s) := by
  unfold probeAnswered
  split
  · exact probeFound_eq 0 s ▸ complete_endsOtherwise _ _
  · exact .inl hb
  · exact probeFound_eq 1 s ▸ complete_endsOtherwise _ _
  · exact raise_endsOtherwise (by simp [deviceNotFound]) _
  · exact .inl hb

theorem startAnswered_endsOtherwise (got : Option (List Byte)) {s : State} (hb : s.busy = true) :
    RunsOrEndsOtherwise (startAnswered got s) := by
  unfold startAnswered
  split
  next k _ _ =>
    cases k with
    | seven => exact complete_endsOtherwise _ _
    | _ => exact .inl hb
  · exact raise_endsOtherwise (by simp [busIo]) _
  · exact .inl hb

/-- The errors of a transaction are BUS_IO and DEVICE_NOT_FOUND (R214, R215). -/
theorem answered_endsOtherwise (cfg : Cfg) (i : Instr) (got : Option (List Byte)) {s : State} (hb : s.busy = true) :
    RunsOrEndsOtherwise ((pseudocode cfg i).answered got s) := by
  obtain ⟨k, v, rfl⟩ | hi | rfl | rfl := instr_kinds i
  · exact .inl hb
  · obtain ⟨first, reg, req, result, hp, -⟩ := pseudocode_oneAccess hi cfg
    rw [hp]
    cases got with
    | none => exact raise_endsOtherwise (by simp [busIo]) s
    | some bytes => exact complete_endsOtherwise _ _
  · exact probeAnswered_endsOtherwise got hb
  · exact startAnswered_endsOtherwise got hb

theorem deliver_endsOtherwise (cfg : Cfg) (i : Instr) (m : EnvMove) {s : State} (hb : s.busy = true) :
    RunsOrEndsOtherwise ((pseudocode cfg i).deliver m s) := by
  obtain h | ⟨-, h⟩ | ⟨-, h⟩ | ⟨-, -, -, h⟩ | ⟨a, r, -, -, h⟩ | ⟨-, -, h⟩ := (pseudocode cfg i).deliver_cases m s <;>
    rw [h]
  · exact .inl hb
  · exact .inl hb
  · exact .inl hb
  · obtain ⟨q, -, -, hg⟩ | ⟨-, hg⟩ := granted_step cfg i s.takeLock <;> rw [hg] <;> exact .inl hb
  · exact answered_endsOtherwise cfg i _ hb
  · obtain ⟨-, hg⟩ | ⟨-, hg⟩ := settled_step cfg i (s.record .settleEnd) <;> rw [hg] <;> exact .inl hb

theorem run_endsOtherwise_of_gate_open (cfg : Cfg) {i : Instr} {s : State} (hb : s.busy = true)
    (hgate : gateOk i s.initState = true) : RunsOrEndsOtherwise ((pseudocode cfg i).run s) :=
  Pseudocode.run_keeps _ (P := RunsOrEndsOtherwise) s hb (fun _ => first_endsOtherwise cfg hb hgate) (fun _ => .inl hb)
    (fun m _ hu _ => deliver_endsOtherwise cfg i m hu) (fun _ _ h => h)

/-- A step that ends a command with SEQ_ERROR is error entry behind the closed gate of a command that has not begun. -/
theorem step_seqError {s t : State} (hs : s.Inv) (hb : s.busy = true) (h : step s = .next t) (hbt : t.busy = false)
    (hcode : codeOf t.status = Code.seqError.bits) :
    ∃ i, decode s.cmd = .ok i ∧ gateOk i s.initState = false ∧ s.lockHeld = false ∧ t = s.raise seqError := by
  obtain ⟨i, -, hi, rfl⟩ | ⟨e, -, -, rfl⟩ | ⟨hidle, -⟩ := step_cases h
  · cases hgate : gateOk i s.initState with
    | true =>
      obtain hrun | hother := run_endsOtherwise_of_gate_open s.cfg hb hgate
      · simp [hrun] at hbt
      · exact absurd hcode hother
    | false =>
      have hstart := hs.atStart_of_gate_closed hb hi hgate
      have hl : s.lockHeld = false := by rw [hs.lock_iff, hstart]; rfl
      exact ⟨i, hi, hgate, hl, run_of_gate_closed s.cfg hstart hgate⟩
  · obtain hrun | hother := raise_endsOtherwise (e := illegalCmd) (by decide) s
    · simp at hrun
    · exact absurd hcode hother
  · simp [hb] at hidle

/-- Settles O40: behind a closed gate the command ends at once, and only there with SEQ_ERROR. -/
theorem sequenceErrorsAreTheTwoGates : Obligations.SequenceErrorsAreTheTwoGates := by
  refine ⟨fun s hs hinit => ?_, fun s hs hinit => ?_, fun s t hs hb h hbt hcode => ?_⟩
  · exact exec_of_gate_closed hs (gateOk_eq_false_iff.mpr (.inl ⟨rfl, hinit⟩))
  · exact exec_of_gate_closed hs (gateOk_eq_false_iff.mpr (.inr ⟨rfl, hinit⟩))
  · obtain ⟨i, hi, hgate, hl, rfl⟩ := step_seqError hs hb h hbt hcode
    refine ⟨by simp, by simp, by simp [hl], ?_⟩
    obtain ⟨rfl, hinit⟩ | ⟨rfl, hinit⟩ := gateOk_eq_false_iff.mp hgate
    · exact .inl ⟨hi, hinit⟩
    · exact .inr ⟨hi, hinit⟩

end Sys2Proof.Machine
end

section
/-! CERTIFICATES. Reset (70_reset_and_hazards.md R240) and waiting (R242; 60_exceptions.md R226): what the host's reset leaves, and a
block with no move to come. -/

namespace Sys2Proof.Machine

theorem step_eq_idleStep {s : State} (hb : s.busy = false) : step s = .next s.idleStep := by
  simp only [step, hb, Bool.false_eq_true, if_false]

theorem State.idleStep_of_reset {s : State} {rest : List HostMove} (hq : s.hostQueue = .reset :: rest) :
    s.idleStep = (s.setHost rest).resetBlock := by
  simp only [State.idleStep, hq]

theorem State.idleStep_of_no_moves {s : State} (hq : s.hostQueue = []) (henv : s.env = []) : s.idleStep = s := by
  simp only [State.idleStep, hq, State.envWhileIdle, henv]

/-- A command at a wait point stays there while no agent moves. -/
theorem Pseudocode.run_of_no_moves (p : Pseudocode) {s : State} (hseq : s.seq ≠ .start) (henv : s.env = []) : p.run s = s := by
  calc p.run s = s.setEnv [] := by rw [p.run_waiting hseq, henv, p.carryOn_nil]
    _ = s.setEnv s.env := by rw [henv]
    _ = s := rfl

/-- Settles O10: the reset is the block's idle step, and each register of the block it gives is that of R36. -/
theorem resetRestoresEveryRegister : Obligations.ResetRestoresEveryRegister := by
  refine ⟨fun s rest hb hq => ?_, rfl, rfl, rfl, rfl, rfl, rfl, rfl, rfl, rfl, rfl⟩
  rw [step_eq_idleStep hb, State.idleStep_of_reset hq]
  rfl

/-- Settles O12: the idle step and the run of a waiting command both have no move to take. -/
theorem blockWaitsWithoutMoves : Obligations.BlockWaitsWithoutMoves := by
  refine ⟨fun s hb hq henv => ?_, fun s i hb hi hseq henv => ?_⟩
  · rw [step_eq_idleStep hb, State.idleStep_of_no_moves hq henv]
  · rw [stepRunsTheLatchedCommand s i hb hi, exec_eq_run, Pseudocode.run_of_no_moves _ hseq henv]

end Sys2Proof.Machine
end
